-- ==== Sys2Proof/Word.lean ====
section
/-! DEFINITION. The words of the machine: register words, data bytes, transaction words, handler references. -/

namespace Sys2Proof

/-- A register word, 32 bits (00_scope R6 `WORD`, decision D2). -/
abbrev Word := BitVec 32

/-- A data byte, 8 bits (00_scope R7). -/
abbrev Byte := BitVec 8

/-- A transaction word `T[47:0]` (30_encoding R90). -/
abbrev TxnWord := BitVec 48

/-- A handler reference: an opaque identity, compared only for equality (00_scope R6 `RXCB`). -/
abbrev HandlerRef := Nat

end Sys2Proof
end

