-- ==== Sys2Proof/Machine/Baud.lean ====
section
/-! DEFINITION. The baud-rate divisor engine BAUD_DIV (42_baud_divisor R155 to R160), over the natural
numbers. -/

namespace Sys2Proof.Machine

/-- The engine's outputs (42_baud_divisor R155). -/
structure Divisor where
  i : BitVec 16
  f : BitVec 6
  accept : Bool
  deriving DecidableEq, Repr

/-- `Q = floor(CLK / (16 * R))` (42_baud_divisor R156). -/
def baudQuotient (clk r : Nat) : Nat := clk / (16 * r)
/-- `rem = CLK mod (16 * R)` (42_baud_divisor R157). -/
def baudRemainder (clk r : Nat) : Nat := clk % (16 * r)
/-- `T = floor((8 * rem) / R)` (42_baud_divisor R157). -/
def baudScaled (clk r : Nat) : Nat := 8 * baudRemainder clk r / r
/-- `H = (T >> 1) + (T & 1)` (42_baud_divisor R158). -/
def baudRounded (clk r : Nat) : Nat := (baudScaled clk r >>> 1) + (baudScaled clk r &&& 1)

/-- BAUD_DIV (42_baud_divisor R160): `I` saturates, `F` is masked to 6 bits with no carry into `I`. -/
def baudDiv (clk : Nat) (r : Word) : Divisor :=
  if r = 0#32 then { i := 0xFFFF#16, f := 0#6, accept := false }
  else
    let i := BitVec.ofNat 16 (min (baudQuotient clk r.toNat) 0xFFFF)
    let f := BitVec.ofNat 6 (baudRounded clk r.toNat &&& 0x3F)
    { i := i, f := f, accept := i != 0#16 && i != 0xFFFF#16 }

end Sys2Proof.Machine
end

