-- ==== Sys2Proof/Config.lean ====
section
/-! DEFINITION. The parameters of an instance (00_scope R6) and the one source of free values. -/

namespace Sys2Proof

/-- The parameters, fixed before reset is released and changed by no operation (00_scope R6,
70_reset R274). A state carries its instance's parameters, so a claim about every state is a claim
about every instance. -/
structure Config where
  /-- `CLK`, the peripheral clock in Hz. -/
  clk : Nat
  /-- `N`, the ring buffer's capacity in bytes. -/
  n : Nat
  /-- `BASE`, the origin of the register window. Addresses are natural numbers, so that `BASE + OFF`
  does not wrap (00_scope R10); the spec gives them no width, and unbounded ones are a DESIGN CHOICE
  (log 25). -/
  base : Nat
  /-- `IRQ`, the block's line at the interrupt controller. -/
  irq : Nat
  /-- `RXCB`, the receive callback bound at OPEN. -/
  rxcb : HandlerRef
  /-- `VIC_BASE` (20_memory R62). -/
  vicBase : Nat
  /-- `VIC_INTENABLE_OFF` (20_memory R62). -/
  vicIntEnableOff : Nat
  /-- `VIC_INTENCLEAR_OFF` (20_memory R62). -/
  vicIntClearOff : Nat
  deriving DecidableEq, Repr

/-- The ranges of the parameters (00_scope R6); an instance outside them is not an instance of this
hardware (93_implementation_defined U14, log 24). `BASE` is bounded only by its alignment. -/
abbrev Config.wf (c : Config) : Prop :=
  1 ≤ c.clk ∧ c.clk < 2 ^ 32 ∧ 1 ≤ c.n ∧ c.n ≤ 65535 ∧ c.base % 4 = 0 ∧ c.irq ≤ 31

/-- The instance `State.reset` takes: `CLK` is the source's example; `N` and `RXCB` are a
DESIGN CHOICE, the addresses and the line number PRESUMED from the platform (log 1). -/
def Config.example24MHz : Config where
  clk := 24000000
  n := 4
  base := 0x101F1000
  irq := 12
  rxcb := 0
  vicBase := 0x10140000
  vicIntEnableOff := 0x10
  vicIntClearOff := 0x14

/-- `draw(byte)` of 00_scope R11: the byte of the k-th draw. It has no body a proof could see, so
whatever is proved holds for every value (log 7). -/
opaque Config.freeByte : Nat → Byte

end Sys2Proof
end

