-- ==== Sys2Proof/Syntax.lean ====
section
/-! DEFINITION. The registers, the primitives and the operations: one constructor of `Instr` for every
row of spec/opcode_table.json. -/

namespace Sys2Proof

/-- The seventeen registers of the window (30_encoding R95). -/
inductive Reg where
  | dr | ibrd | fbrd | lcrh | cr | imsc
  | baud | close | status | fill | rxpop | flush | rxhadd | rxhclr | ptrs | overrun | result
  deriving DecidableEq, Repr

/-- The three primitives (30_encoding R92, 40_register_primitives R120). -/
inductive Kind where
  | read | setBits | writeHard
  deriving DecidableEq, Repr

/-- The closed list of operations (30_encoding R96). -/
inductive Instr where
  /-- OPEN (41_lifecycle R136), `r` the requested baud rate. -/
  | openDev (r : Word)
  /-- CLOSE (41_lifecycle R141). -/
  | closeDev
  /-- RD_STATUS (46_observation R216). -/
  | rdStatus
  /-- AVAILABLE (43_ring_buffer R178). -/
  | available
  /-- READ (43_ring_buffer R174). -/
  | read
  /-- WRITE (44_transmit R191). -/
  | write (b : Byte)
  /-- FLUSH (44_transmit R194). -/
  | flush
  /-- ADD_RECEIVE_HANDLER (45_binding R205), `cb` accepted and unused. -/
  | addReceiveHandler (cb : Word)
  /-- CLEAR_RECEIVE_HANDLERS (45_binding R206). -/
  | clearReceiveHandlers
  /-- RD_PTRS (46_observation R217). -/
  | rdPtrs
  /-- RD_OVERRUN (46_observation R218). -/
  | rdOverrun
  /-- RD_BAUD (46_observation R219). -/
  | rdBaud
  /-- RD_RESULT (46_observation R220). -/
  | rdResult
  /-- RD_IBRD (46_observation R221). -/
  | rdIbrd
  /-- RD_FBRD (46_observation R221). -/
  | rdFbrd
  /-- RD_LCRH (46_observation R221). -/
  | rdLcrh
  /-- RD_CR (46_observation R221). -/
  | rdCr
  /-- RD_IMSC (46_observation R221). -/
  | rdImsc
  /-- IS_OPEN (41_lifecycle R144). -/
  | isOpen
  /-- READ_INTO (43_ring_buffer R176): `out` the caller's buffer as it stands before the call,
  `max` the most bytes to copy. -/
  | readInto (out : List Byte) (max : Nat)
  /-- WRITE_BUF (44_transmit R193). -/
  | writeBuf (bytes : List Byte)
  /-- RECEIVE (43_ring_buffer R171). -/
  | receive (b : Byte)
  /-- DISPATCH (60_exceptions R240). -/
  | dispatch
  /-- RX_DELIVER (60_exceptions R238). -/
  | rxDeliver (b : Byte)
  /-- TX_EMIT (44_transmit R196). -/
  | txEmit
  /-- REG_READ (40_register_primitives R121). -/
  | regRead (reg : Reg)
  /-- SET_BITS (40_register_primitives R122). -/
  | setBits (reg : Reg) (mask : Word)
  /-- WRITE_HARD (40_register_primitives R123). -/
  | writeHard (reg : Reg) (value : Word)
  /-- ENABLE_LINE (45_binding R201). -/
  | enableLine (irq : Nat)
  /-- DISABLE_LINE (45_binding R202). -/
  | disableLine (irq : Nat)
  /-- BIND_HANDLER (45_binding R203). -/
  | bindHandler (irq : Nat) (h : HandlerRef)
  deriving DecidableEq, Repr

end Sys2Proof
end

