-- ==== Sys2Proof/WellFormed.lean ====
section
/-! DEFINITION. Which operations are well formed: the caller's buffer is long enough, a primitive is
applied to a register it has a meaning on, a line number is one of the controller's. -/

namespace Sys2Proof

/-- Registers REG_READ gives a value for: all but the four that have no storage
(40_register_primitives R121, 46_observation R222). -/
def Reg.readable : Reg → Bool
  | .close | .flush | .rxhadd | .rxhclr => false
  | .dr | .ibrd | .fbrd | .lcrh | .cr | .imsc | .baud | .status | .fill | .rxpop | .ptrs | .overrun
  | .result => true

/-- Registers with a stored value the primitives act on: the five line-side control registers
(40_register_primitives R122, R123). -/
def Reg.stored : Reg → Bool
  | .ibrd | .fbrd | .lcrh | .cr | .imsc => true
  | .dr | .baud | .close | .status | .fill | .rxpop | .flush | .rxhadd | .rxhclr | .ptrs | .overrun
  | .result => false

/-- Well-formed operations. -/
def Instr.wf : Instr → Bool
  | .openDev _ | .closeDev | .rdStatus | .available | .read | .write _ | .flush
  | .addReceiveHandler _ | .clearReceiveHandlers | .rdPtrs | .rdOverrun | .rdBaud | .rdResult
  | .rdIbrd | .rdFbrd | .rdLcrh | .rdCr | .rdImsc | .isOpen => true
  -- 43_ring_buffer R176 (g), decision D28: `max ≤ len(out)`
  | .readInto out max => decide (max ≤ out.length)
  | .writeBuf _ | .receive _ | .dispatch | .rxDeliver _ | .txEmit => true
  | .regRead reg => reg.readable
  | .setBits reg _ => reg.stored
  | .writeHard _ _ => true
  -- decision D23: a line is one bit of a 32-bit enable word (log 21)
  | .enableLine irq | .disableLine irq | .bindHandler irq _ => decide (irq ≤ 31)

end Sys2Proof
end

