-- ==== Sys2Proof/Decode.lean ====
section
/-! DEFINITION. The transaction word: its fields, the register map, the admitted table, the decoder
(30_encoding R90 to R103), and after it the encoder (R98) and the written form of the primitives
(R109). -/

namespace Sys2Proof

/-! ## Fields of the transaction word (30_encoding R91) -/

/-- `KIND = T[47:46]`. -/
def kindField (t : TxnWord) : BitVec 2 := t.extractLsb' 46 2
/-- `RSV = T[45:44]`. -/
def rsvField (t : TxnWord) : BitVec 2 := t.extractLsb' 44 2
/-- `OFF = T[43:32]`. -/
def offField (t : TxnWord) : BitVec 12 := t.extractLsb' 32 12
/-- `DATA = T[31:0]`. -/
def dataField (t : TxnWord) : Word := t.extractLsb' 0 32

/-- A transaction word from its fields, RSV = 0 (30_encoding R91). -/
def packTxn (kind : BitVec 2) (off : BitVec 12) (data : Word) : TxnWord := kind ++ 0#2 ++ off ++ data

/-- The primitive a KIND value names; 0b11 is reserved (30_encoding R92). -/
def kindOf : BitVec 2 → Option Kind
  | 0b00#2 => some .read
  | 0b01#2 => some .setBits
  | 0b10#2 => some .writeHard
  | _ => none

/-- The KIND value of a primitive (30_encoding R92). -/
def Kind.code : Kind → BitVec 2
  | .read => 0b00#2
  | .setBits => 0b01#2
  | .writeHard => 0b10#2

/-- The register map: the offset of each register (30_encoding R95). -/
def Reg.offset : Reg → BitVec 12
  | .dr => 0x000#12
  | .ibrd => 0x024#12
  | .fbrd => 0x028#12
  | .lcrh => 0x02C#12
  | .cr => 0x030#12
  | .imsc => 0x038#12
  | .baud => 0x100#12
  | .close => 0x104#12
  | .status => 0x108#12
  | .fill => 0x10C#12
  | .rxpop => 0x110#12
  | .flush => 0x114#12
  | .rxhadd => 0x118#12
  | .rxhclr => 0x11C#12
  | .ptrs => 0x120#12
  | .overrun => 0x124#12
  | .result => 0x128#12

/-- Every register, in the order of the map. -/
def Reg.all : List Reg :=
  [.dr, .ibrd, .fbrd, .lcrh, .cr, .imsc, .baud, .close, .status, .fill, .rxpop, .flush, .rxhadd,
   .rxhclr, .ptrs, .overrun, .result]

/-- The register at an offset; every offset not in the map is reserved (30_encoding R95). -/
def regAt (off : BitVec 12) : Option Reg := Reg.all.find? fun r => r.offset = off

/-- The admitted table (30_encoding R97): the operation a host primitive on a register is, with its
operand taken from DATA (30_encoding R93). -/
def admitted : Kind → Reg → Word → Option Instr
  | .writeHard, .dr, d => some (.write (d.extractLsb' 0 8))
  | .read, .ibrd, _ => some .rdIbrd
  | .read, .fbrd, _ => some .rdFbrd
  | .read, .lcrh, _ => some .rdLcrh
  | .read, .cr, _ => some .rdCr
  | .read, .imsc, _ => some .rdImsc
  | .read, .baud, _ => some .rdBaud
  | .writeHard, .baud, d => some (.openDev d)
  | .writeHard, .close, _ => some .closeDev
  | .read, .status, _ => some .rdStatus
  | .read, .fill, _ => some .available
  | .read, .rxpop, _ => some .read
  | .writeHard, .flush, _ => some .flush
  | .writeHard, .rxhadd, d => some (.addReceiveHandler d)
  | .writeHard, .rxhclr, _ => some .clearReceiveHandlers
  | .read, .ptrs, _ => some .rdPtrs
  | .read, .overrun, _ => some .rdOverrun
  | .read, .result, _ => some .rdResult
  | _, _, _ => none

/-- Why a transaction is refused (30_encoding R103). -/
inductive Reject where
  /-- `RSV != 0b00`. -/
  | reservedBits
  /-- `KIND == 0b11`. -/
  | reservedKind
  /-- `OFF[1:0] != 0b00` (20_memory R66). -/
  | misaligned
  /-- `OFF` is not an offset of the register map. -/
  | unmapped
  /-- The pair (register, primitive) is not admitted for the host. -/
  | notAdmitted (k : Kind) (r : Reg)
  deriving DecidableEq, Repr

/-- The decoder (30_encoding R99), total on all 2^48 words, its tests in the rule's order. -/
def decode (t : TxnWord) : Except Reject Instr :=
  if rsvField t ≠ 0#2 then .error .reservedBits
  else
    match kindOf (kindField t) with
    | none => .error .reservedKind
    | some k =>
      if (offField t).extractLsb' 0 2 ≠ 0#2 then .error .misaligned
      else
        match regAt (offField t) with
        | none => .error .unmapped
        | some r =>
          match admitted k r (dataField t) with
          | none => .error (.notAdmitted k r)
          | some i => .ok i

/-- The instruction the decoder reads from a table row's word. The table numbers bit 0 as the least
significant bit of the one 48-bit word, as the spec does (00_scope R9); bits above `nbits` are 0. -/
def decodeTableWord (nbits w : Nat) : Option Instr :=
  if w < 2 ^ nbits ∧ w < 2 ^ 48 then
    match decode (BitVec.ofNat 48 w) with
    | .ok i => some i
    | .error _ => none
  else none

/-! ## The encoder -/

/-- `T[47:32]` of each BUS operation (30_encoding R98, column "pattern"); `none` for the operations
that have no transaction word (30_encoding R108, R109). -/
def Instr.pattern : Instr → Option (BitVec 16)
  | .write _ => some 0x8000#16
  | .rdIbrd => some 0x0024#16
  | .rdFbrd => some 0x0028#16
  | .rdLcrh => some 0x002C#16
  | .rdCr => some 0x0030#16
  | .rdImsc => some 0x0038#16
  | .rdBaud => some 0x0100#16
  | .openDev _ => some 0x8100#16
  | .closeDev => some 0x8104#16
  | .rdStatus => some 0x0108#16
  | .available => some 0x010C#16
  | .read => some 0x0110#16
  | .flush => some 0x8114#16
  | .addReceiveHandler _ => some 0x8118#16
  | .clearReceiveHandlers => some 0x811C#16
  | .rdPtrs => some 0x0120#16
  | .rdOverrun => some 0x0124#16
  | .rdResult => some 0x0128#16
  | .isOpen | .readInto _ _ | .writeBuf _ | .receive _ | .dispatch | .rxDeliver _ | .txEmit
  | .regRead _ | .setBits _ _ | .writeHard _ _ | .enableLine _ | .disableLine _
  | .bindHandler _ _ => none

/-- The BUS operations: those a transaction word can name (30_encoding R96). -/
def Instr.isBus (i : Instr) : Bool := i.pattern.isSome

/-- DATA of an operation's canonical form: its operand, ignored bits 0 (30_encoding R93, R102). -/
def Instr.operandData : Instr → Word
  | .openDev r => r
  | .write b => b.setWidth 32
  | .addReceiveHandler cb => cb
  | .closeDev | .rdStatus | .available | .read | .flush | .clearReceiveHandlers | .rdPtrs
  | .rdOverrun | .rdBaud | .rdResult | .rdIbrd | .rdFbrd | .rdLcrh | .rdCr | .rdImsc
  | .isOpen | .readInto _ _ | .writeBuf _ | .receive _ | .dispatch | .rxDeliver _ | .txEmit
  | .regRead _ | .setBits _ _ | .writeHard _ _ | .enableLine _ | .disableLine _
  | .bindHandler _ _ => 0#32

/-- The canonical transaction word of a BUS operation (30_encoding R98, R102, R110). -/
def encode (i : Instr) : Option TxnWord := i.pattern.map fun p => p ++ i.operandData

/-- The bits of DATA an operation takes (30_encoding R93, R102). -/
def usedDataMask : Instr → Word
  | .openDev _ | .addReceiveHandler _ => 0xFFFFFFFF#32
  | .write _ => 0x000000FF#32
  | .closeDev | .rdStatus | .available | .read | .flush | .clearReceiveHandlers | .rdPtrs
  | .rdOverrun | .rdBaud | .rdResult | .rdIbrd | .rdFbrd | .rdLcrh | .rdCr | .rdImsc
  | .isOpen | .readInto _ _ | .writeBuf _ | .receive _ | .dispatch | .rxDeliver _ | .txEmit
  | .regRead _ | .setBits _ _ | .writeHard _ _ | .enableLine _ | .disableLine _
  | .bindHandler _ _ => 0#32

/-- A word with the bits its operation ignores cleared (30_encoding R102 "canonical form"); a refused
word is left as it is. -/
def canonicalForm (t : TxnWord) : TxnWord :=
  match decode t with
  | .ok i => t &&& (0xFFFF#16 ++ usedDataMask i)
  | .error _ => t

/-! ## The written form of the internal primitives (30_encoding R109) -/

/-- The word a sequencer or dispatcher primitive is written as; it does not pass the host decoder. -/
def writtenForm : Instr → Option TxnWord
  | .regRead reg => some (packTxn Kind.read.code reg.offset 0#32)
  | .setBits reg mask => some (packTxn Kind.setBits.code reg.offset mask)
  | .writeHard reg value => some (packTxn Kind.writeHard.code reg.offset value)
  | _ => none

/-- The primitive a written form stands for: the same KIND and OFF codes, without the admitted table. -/
def readWrittenForm (t : TxnWord) : Option Instr :=
  if rsvField t ≠ 0#2 then none
  else
    match kindOf (kindField t), regAt (offField t) with
    | some .read, some reg => some (.regRead reg)
    | some .setBits, some reg => some (.setBits reg (dataField t))
    | some .writeHard, some reg => some (.writeHard reg (dataField t))
    | _, _ => none

end Sys2Proof
end

