-- ==== Sys2Proof/Machine/State.lean ====
section
/-! DEFINITION. The state of the machine: everything spec/10_state.md names, the instance's parameters,
the foreground's position, the inputs still to come, and the state after reset. -/

namespace Sys2Proof.Machine

/-- The agents (10_state R20). -/
inductive Agent where
  | fg | disp | lineRx | lineTx
  deriving DecidableEq, Repr

/-- The micro-steps of OPEN a `seq` value can name (10_state R33, 90_conflicts C9). -/
inductive OpenStep where
  | o3 | o4 | o5 | o6 | o7 | o8 | o9 | o10 | o11
  deriving DecidableEq, Repr

/-- The micro-steps of CLOSE a `seq` value can name (10_state R33, 90_conflicts C9). -/
inductive CloseStep where
  | k2 | k3
  deriving DecidableEq, Repr

/-- The sequencer position (10_state R33). -/
inductive Seq where
  | idle
  /-- The next micro-step of OPEN, with the latched request and the latched divisors. -/
  | opening (k : OpenStep) (r : Word) (i : BitVec 16) (f : BitVec 6)
  /-- The next micro-step of CLOSE. -/
  | closing (k : CloseStep)
  deriving DecidableEq, Repr

/-- Where the foreground stands inside a pseudo-operation: the host's own loop variables
(60_exceptions R242, 30_encoding R108). -/
inductive FgLoop where
  /-- Inside no pseudo-operation. -/
  | quiet
  /-- READ_INTO: the caller's buffer as filled so far, `max`, and `n` bytes copied. -/
  | readInto (out : List Byte) (max n : Nat)
  /-- WRITE_BUF: the bytes still to write, and the length of the whole buffer. -/
  | writeBuf (rest : List Byte) (len : Nat)
  deriving DecidableEq, Repr

/-- What the last operation that returns a value other than through `last_result` returned to its
caller (30_encoding R94, R101, R106): the MODEL's own record (log 11). -/
inductive Answer where
  | none
  /-- The response word of a READ transaction, or the word of a REG_READ. -/
  | rdata (w : Word)
  /-- The result of IS_OPEN or WRITE_BUF. -/
  | value (n : Nat)
  /-- READ_INTO's count and the caller's buffer after the call. -/
  | copied (n : Nat) (out : List Byte)
  /-- RECEIVE's `accepted`. -/
  | accepted (b : Bool)
  deriving DecidableEq, Repr

/-- What the foreground host can do (30_encoding R96 BUS and PSEUDO rows), and the binding calls other
software makes, taken as extra steps of the foreground (45_binding R208). -/
inductive HostOp where
  /-- One transaction word put to the block's decoder. -/
  | bus (t : TxnWord)
  /-- One primitive at an absolute address (20_memory R61, 30_encoding R112). -/
  | access (k : Kind) (addr : Nat) (data : Word)
  | isOpen
  | readInto (out : List Byte) (max : Nat)
  | writeBuf (bytes : List Byte)
  | enableLine (irq : Nat)
  | disableLine (irq : Nat)
  | bindHandler (irq : Nat) (h : HandlerRef)
  deriving DecidableEq, Repr

/-- Who takes the next step: one entry of the schedule (10_state R20, R49). -/
inductive Turn where
  | fg
  | disp
  /-- The line delivers `b`, a free input. -/
  | lineRx (b : Byte)
  | lineTx
  /-- The event RESET, of no agent (70_reset R270). -/
  | reset
  deriving DecidableEq, Repr

/-- Ring buffer storage: the slots that hold a byte, slot indexes strictly rising (10_state R26). -/
abbrev Memory := List Host.Cell

/-- The machine. -/
structure State where
  /-- The parameters of this instance (00_scope R6); no step changes them. -/
  cfg : Config
  /-- `baud_rate` (10_state R22). -/
  baudRate : Word
  /-- The packed pointer word (10_state R25). -/
  hc : Word
  /-- The ring buffer's slots (10_state R26). -/
  buf : Memory
  /-- `last_result` (10_state R30). -/
  lastResult : Word
  /-- `overrun_count` (10_state R31). -/
  overrunCount : Word
  /-- The sequencer position (10_state R33). -/
  seq : Seq
  /-- `IBRD.DIVINT` (10_state R34). -/
  ibrd : BitVec 16
  /-- `FBRD.DIVFRAC` (10_state R35). -/
  fbrd : BitVec 6
  /-- `LCRH` (10_state R36). -/
  lcrh : BitVec 8
  /-- `CR` (10_state R37). -/
  cr : BitVec 16
  /-- `IMSC` (10_state R38). -/
  imsc : BitVec 11
  /-- `rx_hold` (10_state R40). -/
  rxHold : Option Byte
  /-- `tx_hold` (10_state R41). -/
  txHold : Option Byte
  /-- `tx_corrupt` (10_state R42). -/
  txCorrupt : Bool
  /-- `line_overrun` (10_state R42). -/
  lineOverrun : Bool
  /-- `vic_enabled` (10_state R45). -/
  vicEnabled : Bool
  /-- `vic_handler` (10_state R45). -/
  vicHandler : Option HandlerRef
  /-- `tx_log` (10_state R46). -/
  txLog : List Byte
  /-- `rx_seq` (10_state R46). -/
  rxSeq : List Byte
  /-- Bytes of the WRITEs that found the transmitter enabled: the MODEL's history (log 12). -/
  txSeq : List Byte
  /-- Bytes offered to RECEIVE: the MODEL's history (log 12). -/
  offered : List Byte
  /-- Bytes RECEIVE accepted since `hc` was last reset: the MODEL's history (log 12). -/
  accepted : List Byte
  /-- Bytes successful READs returned since `hc` was last reset: the MODEL's history (log 12). -/
  returned : List Byte
  /-- How many free values have been drawn: the MODEL's counter (log 7). -/
  draws : Nat
  /-- The MODEL's record of the last answer (log 11). -/
  answer : Answer
  /-- The foreground's position in a pseudo-operation (60_exceptions R242). -/
  loop : FgLoop
  /-- The foreground's operations not yet issued, oldest first (log 4). -/
  host : List HostOp
  /-- The turns not yet taken (log 2). -/
  sched : List Turn
  deriving DecidableEq, Repr

/-- Reasons the machine stops with a fault. The hardware has none (60_exceptions R235). -/
inductive Fault where
  /-- READ (and REG_READ of RXPOP) with `head ≥ N`: the slot does not exist (20_memory R63). Raised only
  in states no run reaches (10_state R27 I-b). Safe: the machine stops. -/
  | noSuchSlot
  deriving DecidableEq, Repr

/-- Reasons a step has no meaning in this model. -/
inductive Refusal where
  /-- An arm of `exec` that has no meaning yet. Safe. -/
  | notModelled (mnemonic : String)
  /-- A transaction outside the admitted set (30_encoding R103, U1): raised by the host decoder. Safe. -/
  | transaction (r : Reject)
  /-- A host access at an address outside the block's window (20_memory R61): raised when the foreground
  issues it. Safe. -/
  | outsideWindow
  /-- A host operation while the previous one has not returned, which cannot occur (10_state R20, R33,
  41_lifecycle R139 (g)): raised by every BUS and PSEUDO meaning. Safe. -/
  | foregroundBusy
  /-- READ_INTO with `max` above the buffer's length (43_ring_buffer R176 (g), U5). Safe. -/
  | callerBufferTooShort
  /-- The step of an agent that is not enabled (60_exceptions R239, 44_transmit R196): raised by DISPATCH
  and TX_EMIT. Safe: there is no such step. -/
  | notEnabled (a : Agent)
  /-- A primitive on a register the rules give it no meaning on (40_register_primitives R121, R122):
  raised by REG_READ and SET_BITS. Safe. -/
  | noMeaningOn (k : Kind) (r : Reg)
  deriving DecidableEq, Repr

/-- The outcome of a step. -/
abbrev Result := Host.Outcome State Fault Refusal

/-- The state after reset of the instance with parameters `c` (10_state R48). -/
def State.resetWith (c : Config) : State where
  cfg := c
  baudRate := 0#32
  hc := 0#32
  buf := []
  lastResult := 0#32
  overrunCount := 0#32
  seq := .idle
  ibrd := 0#16
  fbrd := 0#6
  lcrh := 0#8
  cr := 0#16
  imsc := 0#11
  rxHold := none
  txHold := none
  txCorrupt := false
  lineOverrun := false
  vicEnabled := false
  vicHandler := none
  txLog := []
  rxSeq := []
  txSeq := []
  offered := []
  accepted := []
  returned := []
  draws := 0
  answer := .none
  loop := .quiet
  host := []
  sched := []

/-- The machine right after reset (10_state R48), in the example instance (log 1). -/
def State.reset : State := State.resetWith Config.example24MHz

end Sys2Proof.Machine
end

