-- ==== Sys2Proof/Machine/Flags.lean ====
section
/-! DEFINITION. The flags: functions of other state (10_state R43, R44), and the STATUS word they make up
(46_observation R216). -/

namespace Sys2Proof.Machine

/-- `head = hc[31:16]` (10_state R25). -/
def State.head (s : State) : BitVec 16 := s.hc.extractLsb' 16 16
/-- `count = hc[15:0]` (10_state R25). -/
def State.count (s : State) : BitVec 16 := s.hc.extractLsb' 0 16

/-- `CR.UARTEN` (10_state R37). -/
def State.uarten (s : State) : Bool := s.cr.getLsbD 0
/-- `CR.TXE` (10_state R37). -/
def State.txe (s : State) : Bool := s.cr.getLsbD 8
/-- `CR.RXE` (10_state R37). -/
def State.rxe (s : State) : Bool := s.cr.getLsbD 9
/-- `IMSC.RXIM` (10_state R38). -/
def State.rxim (s : State) : Bool := s.imsc.getLsbD 4
/-- `LCRH.FEN` (10_state R36). -/
def State.fen (s : State) : Bool := s.lcrh.getLsbD 4

/-- Transmitter enabled (10_state R37, 44_transmit R191). -/
def State.txEnabled (s : State) : Bool := s.uarten && s.txe
/-- Receiver enabled (10_state R37, 60_exceptions R238). -/
def State.rxEnabled (s : State) : Bool := s.uarten && s.rxe

/-- STATUS.OPEN, the lifecycle predicate (10_state R29, R43; 41_lifecycle R144). -/
def State.flagOpen (s : State) : Bool := s.baudRate != 0#32
/-- STATUS.RXNE (10_state R43). -/
def State.flagRxne (s : State) : Bool := s.count != 0#16
/-- STATUS.RXFULL (10_state R43), the condition RECEIVE tests. -/
def State.flagRxfull (s : State) : Bool := s.count.toNat == s.cfg.n
/-- STATUS.TXFF (10_state R43). -/
def State.flagTxff (s : State) : Bool := s.txHold.isSome
/-- STATUS.RXRIS, the raw receive interrupt (10_state R43). -/
def State.flagRxris (s : State) : Bool := s.rxHold.isSome
/-- `irq_req`, STATUS.RXMIS (10_state R44). -/
def State.irqReq (s : State) : Bool := s.flagRxris && s.rxim

/-- DISPATCH is enabled (60_exceptions R239). -/
def State.dispatchEnabled (s : State) : Bool :=
  s.irqReq && s.vicEnabled && decide (s.vicHandler = some s.cfg.rxcb)
/-- TX_EMIT is enabled (44_transmit R196). -/
def State.emitEnabled (s : State) : Bool := s.flagTxff && s.txEnabled

/-- The STATUS register (46_observation R216). -/
def State.statusWord (s : State) : Word :=
  0#22 ++ BitVec.ofBool s.lineOverrun ++ BitVec.ofBool s.txCorrupt ++ 0#2
    ++ BitVec.ofBool s.irqReq ++ BitVec.ofBool s.flagRxris ++ BitVec.ofBool s.flagTxff
    ++ BitVec.ofBool s.flagRxfull ++ BitVec.ofBool s.flagRxne ++ BitVec.ofBool s.flagOpen

end Sys2Proof.Machine
end

