-- ==== Sys2Proof/Machine/Operands.lean ====
section
/-! DEFINITION. The operand forms: addresses in the window, the value each register reads as, what a write
stores, and the response layouts (20_memory R61, R67; 30_encoding R101, R112; 40_register_primitives). -/

namespace Sys2Proof.Machine

/-- The address of a register, `BASE + OFF`, which does not wrap (00_scope R10, 20_memory R61,
40_register_primitives R128). -/
def regAddress (c : Config) (r : Reg) : Nat := c.base + r.offset.toNat

/-- The offset of an address in the 4 KiB window `BASE .. BASE + 0xFFF` (00_scope R10, 20_memory R61). -/
def windowOffset (c : Config) (addr : Nat) : Option (BitVec 12) :=
  if c.base ≤ addr ∧ addr ≤ c.base + 0xFFF then some (BitVec.ofNat 12 (addr - c.base)) else none

/-- The transaction word of a primitive at an address; none outside the window (30_encoding R91, R112). -/
def busTransaction (c : Config) (k : Kind) (addr : Nat) (data : Word) : Option TxnWord :=
  (windowOffset c addr).map fun off => packTxn k.code off data

/-- The value a register reads as, zero-extended (40_register_primitives R121 `value_of`; 46_observation
R216 to R221; 43_ring_buffer R178), for the registers whose read has no side effect. -/
def State.valueOf (s : State) : Reg → Option Word
  | .ibrd => some (s.ibrd.setWidth 32)
  | .fbrd => some (s.fbrd.setWidth 32)
  | .lcrh => some (s.lcrh.setWidth 32)
  | .cr => some (s.cr.setWidth 32)
  | .imsc => some (s.imsc.setWidth 32)
  | .baud => some s.baudRate
  | .status => some s.statusWord
  | .fill => some (s.count.setWidth 32)
  | .ptrs => some s.hc
  | .overrun => some s.overrunCount
  | .result => some s.lastResult
  | .dr | .rxpop | .close | .flush | .rxhadd | .rxhclr => none

/-- `stored_value(reg) <- value truncated to the register's width` (40_register_primitives R123), for the
registers with a stored value. -/
def State.storeReg (s : State) : Reg → Word → Option State
  | .ibrd, v => some { s with ibrd := v.setWidth 16 }
  | .fbrd, v => some { s with fbrd := v.setWidth 6 }
  | .lcrh, v => some { s with lcrh := v.setWidth 8 }
  | .cr, v => some { s with cr := v.setWidth 16 }
  | .imsc, v => some { s with imsc := v.setWidth 11 }
  | .dr, _ | .baud, _ | .close, _ | .status, _ | .fill, _ | .rxpop, _ | .flush, _ | .rxhadd, _
  | .rxhclr, _ | .ptrs, _ | .overrun, _ | .result, _ => none

/-- The response of a READ that finds a byte: VALID in bit 8, the byte below (43_ring_buffer R174). -/
def validWord (b : Byte) : Word := 0x00000100#32 ||| b.setWidth 32
/-- `rdata[8]` of a READ response (43_ring_buffer R174). -/
def validBit (w : Word) : Bool := w.getLsbD 8
/-- `rdata[7:0]`: where a data byte travels (20_memory R65). -/
def dataByte (w : Word) : Byte := w.extractLsb' 0 8

end Sys2Proof.Machine
end

