-- ==== Sys2Proof/Machine/Ops.lean ====
section
/-! DEFINITION. The named operations the meanings are written over: the ring buffer's storage, the pointer
word, the error outcomes, the enqueue and the dequeue, the register reads with a side effect, the
interrupt controller's binding, and the event RESET. -/

namespace Sys2Proof.Machine

/-! ## Ring buffer storage (20_memory R63) -/

/-- The byte a slot holds; `none` where nothing has been written (log 8). -/
def Memory.read : Memory → Nat → Option Byte
  | [], _ => none
  | (k, b) :: m, a => if k = a then some b else Memory.read m a

/-- Overwrite a slot in place (10_state R26), keeping the slots in rising order. -/
def Memory.write : Memory → Nat → Byte → Memory
  | [], a, v => [(a, v)]
  | (k, b) :: m, a, v =>
    if a < k then (a, v) :: (k, b) :: m
    else if a = k then (a, v) :: m
    else (k, b) :: Memory.write m a v

/-- Canonical form: slot indexes strictly rising. An unlisted slot reads as no value, so no entry can
equal it. -/
def Memory.wf : Memory → Bool
  | [] => true
  | [_] => true
  | c :: d :: m => decide (c.1 < d.1) && Memory.wf (d :: m)

/-! ## The pointer word -/

/-- `head ++ count` (10_state R25). -/
def packHc (head count : BitVec 16) : Word := head ++ count

/-- One write of the whole pointer word (10_state R25, 43_ring_buffer R177). -/
def State.setPtrs (s : State) (head count : BitVec 16) : State := { s with hc := packHc head count }

/-- `(head, count) <- (0, 0)` of O10 and K3; the histories since the last reset of `hc` begin anew. -/
def State.emptyRing (s : State) : State :=
  { s.setPtrs 0#16 0#16 with accepted := [], returned := [] }

/-- The producer's slot, `(head + count) mod N` (20_memory R63). -/
def State.tailSlot (s : State) : Nat := (s.head.toNat + s.count.toNat) % s.cfg.n
/-- The consumer's advance, `(head + 1) mod N` (20_memory R63). -/
def State.nextHead (s : State) : BitVec 16 := BitVec.ofNat 16 ((s.head.toNat + 1) % s.cfg.n)

/-- The live window: what its slots hold, oldest first (10_state R26, 43_ring_buffer R170). -/
def State.window (s : State) : List (Option Byte) :=
  (List.range s.count.toNat).map fun i => s.buf.read ((s.head.toNat + i) % s.cfg.n)

/-! ## Error outcomes -/

/-- The outcomes of the error taxonomy (60_exceptions R230). -/
inductive ErrorOutcome where
  | configurationError | overrun | underrun | notImplemented
  deriving DecidableEq, Repr

/-- `overrun_count + 1`, saturating (43_ring_buffer R172). -/
def satIncr (w : Word) : Word := if w = 0xFFFFFFFF#32 then w else w + 1#32

/-- What state records an outcome (60_exceptions R230, R231 to R234). No outcome transfers control. -/
def State.raise (s : State) : ErrorOutcome → State
  | .configurationError => { s with baudRate := 0#32, lastResult := 0#32 }
  | .overrun => { s with overrunCount := satIncr s.overrunCount }
  | .underrun => s
  | .notImplemented => { s with lastResult := 0#32 }

/-! ## Results -/

/-- Latch a return value (30_encoding R100). -/
def State.latch (s : State) (v : Word) : State := { s with lastResult := v }
/-- Record what an operation answered (log 11). -/
def State.reply (s : State) (a : Answer) : State := { s with answer := a }

/-! ## Enqueue and dequeue -/

/-- RECEIVE(b) (43_ring_buffer R171): `accepted` and the state after it. -/
def State.enqueue (s : State) (b : Byte) : Bool × State :=
  if s.flagRxfull then (false, { s with offered := s.offered ++ [b] }.raise .overrun)
  else
    (true, { s.setPtrs s.head (s.count + 1#16) with
      buf := s.buf.write s.tailSlot b
      offered := s.offered ++ [b]
      accepted := s.accepted ++ [b] })

/-- The byte slot `i` reads as, and the draws after it: a slot that nothing has written reads as a free
value (93_implementation_defined U4, log 8). -/
def State.slotByte (s : State) (i : Nat) : Byte × Nat :=
  match s.buf.read i with
  | some b => (b, s.draws)
  | none => (Config.freeByte s.draws, s.draws + 1)

/-- READ (43_ring_buffer R174): the response word and the state after it, the answer recorded; `none`
where `head` is no slot (log 10). -/
def State.dequeue (s : State) : Option (Word × State) :=
  if s.count = 0#16 then some (0#32, (s.raise .underrun).reply (.rdata 0#32))
  else if s.head.toNat < s.cfg.n then
    let b := (s.slotByte s.head.toNat).1
    some (validWord b,
      { (s.setPtrs s.nextHead (s.count - 1#16)).reply (.rdata (validWord b)) with
        draws := (s.slotByte s.head.toNat).2
        returned := s.returned ++ [b] })
  else none

/-- REG_READ(DR): the waiting byte zero-extended; the read empties `rx_hold` (40_register_primitives R121,
60_exceptions R240). With nothing waiting the rules give no value: a free one (log 9). -/
def State.takeRx (s : State) : Word × State :=
  match s.rxHold with
  | some b => (b.setWidth 32, { s with rxHold := none })
  | none => ((Config.freeByte s.draws).setWidth 32, { s with draws := s.draws + 1 })

/-- WRITE(b) (44_transmit R191, R192). -/
def State.transmit (s : State) (b : Byte) : State :=
  if s.txEnabled then
    match s.txHold with
    | none => { s with txHold := some b, txSeq := s.txSeq ++ [b] }.latch 1#32
    | some _ =>
      { s with
        txCorrupt := true
        txHold := some (Config.freeByte s.draws)
        draws := s.draws + 1
        txSeq := s.txSeq ++ [b] }.latch 1#32
  else s.latch 1#32

/-! ## The interrupt controller's binding (45_binding R201 to R203) -/

/-- `ENABLE_LINE(irq)`. -/
def State.lineOn (s : State) (irq : Nat) : State :=
  if irq = s.cfg.irq then { s with vicEnabled := true } else s
/-- `DISABLE_LINE(irq)`. -/
def State.lineOff (s : State) (irq : Nat) : State :=
  if irq = s.cfg.irq then { s with vicEnabled := false } else s
/-- `BIND_HANDLER(irq, h)`. -/
def State.bindLine (s : State) (irq : Nat) (h : HandlerRef) : State :=
  if irq = s.cfg.irq then { s with vicHandler := some h } else s

/-! ## Interrupt delivery and reset -/

/-- Taking the receive interrupt and returning from it, one atomic step (60_exceptions R240, R242, R243):
the callback reads DR and performs RECEIVE; `accepted` is discarded, nothing is saved or restored. -/
def State.deliver (s : State) : State := (s.takeRx.2.enqueue (dataByte s.takeRx.1)).2

/-- The event RESET (70_reset R270, R272): every element at its reset value, an operation in progress
abandoned. The inputs still to come and the draw counter are not the block's and stay (log 17). -/
def State.applyReset (s : State) : State :=
  { State.resetWith s.cfg with draws := s.draws, host := s.host, sched := s.sched }

/-! ## The foreground -/

/-- The foreground is inside no operation, so it may start one (10_state R20, R33). -/
def State.fgFree (s : State) : Bool := decide (s.seq = .idle) && decide (s.loop = .quiet)

/-- A host operation starts only when the previous one has returned (10_state R20, log 6). -/
def whenFree (s : State) (r : Result) : Result :=
  if s.fgFree then r else .refused .foregroundBusy

end Sys2Proof.Machine
end

