-- ==== Sys2Proof/Machine/Binding.lean ====
section
/-! DEFINITION. The interrupt controller's binding and the receive-handler stubs (45_binding). -/

namespace Sys2Proof.Machine

/-- ENABLE_LINE (45_binding R201). -/
def execEnableLine (irq : Nat) (s : State) : Result := .next (s.lineOn irq)

/-- DISABLE_LINE (45_binding R202). -/
def execDisableLine (irq : Nat) (s : State) : Result := .next (s.lineOff irq)

/-- BIND_HANDLER (45_binding R203). -/
def execBindHandler (irq : Nat) (h : HandlerRef) (s : State) : Result := .next (s.bindLine irq h)

/-- ADD_RECEIVE_HANDLER (45_binding R205): the stub's failure; the callback is accepted and unused. -/
def execAddReceiveHandler (_cb : Word) (s : State) : Result :=
  whenFree s (.next (s.raise .notImplemented))

/-- CLEAR_RECEIVE_HANDLERS (45_binding R206): no state changes. -/
def execClearReceiveHandlers (s : State) : Result := whenFree s (.next s)

/-- The controller access ENABLE_LINE is on the platform (45_binding R204, not normative): primitive,
address, data. -/
def vicEnableAccess (c : Config) (irq : Nat) : Kind × Nat × Word :=
  (.setBits, c.vicBase + c.vicIntEnableOff, 1#32 <<< irq)

/-- The controller access DISABLE_LINE is on the platform (45_binding R204, not normative). -/
def vicDisableAccess (c : Config) (irq : Nat) : Kind × Nat × Word :=
  (.writeHard, c.vicBase + c.vicIntClearOff, 1#32 <<< irq)

end Sys2Proof.Machine
end

