-- ==== Sys2Proof/Machine/Events.lean ====
section
/-! DEFINITION. The receive line's delivery and the interrupt's dispatch (60_exceptions R238 to R240). -/

namespace Sys2Proof.Machine

/-- RX_DELIVER (60_exceptions R238): always enabled. -/
def execRxDeliver (b : Byte) (s : State) : Result :=
  if s.rxEnabled then
    match s.rxHold with
    | none => .next { s with rxHold := some b, rxSeq := s.rxSeq ++ [b] }
    | some _ => .next { s with lineOverrun := true }
  else .next s

/-- DISPATCH (60_exceptions R240): there is such a step only when R239 holds. -/
def execDispatch (s : State) : Result :=
  if s.dispatchEnabled then .next s.deliver else .refused (.notEnabled .disp)

end Sys2Proof.Machine
end

