-- ==== Sys2Proof/Machine/Lifecycle.lean ====
section
/-! DEFINITION. OPEN, CLOSE and IS_OPEN (41_lifecycle). -/

namespace Sys2Proof.Machine

/-- The constant OPEN writes to LCRH: 8 bits, no parity, 1 stop bit, FIFO off (10_state R36). -/
def lcrh8N1 : Word := 0x60#32
/-- The constant OPEN writes to CR: UARTEN, TXE, RXE (10_state R37). -/
def crEnable : Word := 0x0301#32
/-- The mask OPEN ORs into IMSC: RXIM (10_state R38). -/
def imscRxim : Word := 0x010#32

/-- OPEN's first atomic step, micro-steps O1 and O2, or the failure exit (41_lifecycle R137, R138). -/
def State.openStart (s : State) (r : Word) : State :=
  if (baudDiv s.cfg.clk r).accept then
    { s with seq := .opening .o3 r (baudDiv s.cfg.clk r).i (baudDiv s.cfg.clk r).f }
  else s.raise .configurationError

/-- OPEN (41_lifecycle R136 to R139): the bus transaction; the rest is `openMicro`. -/
def execOpenDev (r : Word) (s : State) : Result := whenFree s (.next (s.openStart r))

/-- A primitive of the sequencer that stores to one of the line-side registers (40_register_primitives
R123, R124). -/
def State.writeHardStored (s : State) (reg : Reg) (v : Word) : State := (s.storeReg reg v).getD s

/-- SET_BITS on a register with a stored value: OR, truncated to its width, one atomic step
(40_register_primitives R122). -/
def State.setBitsStored (s : State) (reg : Reg) (mask : Word) : State :=
  match s.valueOf reg with
  | some old => (s.storeReg reg (old ||| mask)).getD s
  | none => s

/-- The micro-steps O3 to O11 of OPEN, each one atomic step that also advances `seq` (41_lifecycle R137). -/
def State.openMicro (s : State) (k : OpenStep) (r : Word) (i : BitVec 16) (f : BitVec 6) : State :=
  match k with
  | .o3 => { s.writeHardStored .ibrd (i.setWidth 32) with seq := .opening .o4 r i f }
  | .o4 => { s.writeHardStored .fbrd (f.setWidth 32) with seq := .opening .o5 r i f }
  | .o5 => { s.writeHardStored .lcrh lcrh8N1 with seq := .opening .o6 r i f }
  | .o6 => { s.writeHardStored .cr crEnable with seq := .opening .o7 r i f }
  | .o7 => { s.setBitsStored .imsc imscRxim with seq := .opening .o8 r i f }
  | .o8 => { s.lineOn s.cfg.irq with seq := .opening .o9 r i f }
  | .o9 => { s.bindLine s.cfg.irq s.cfg.rxcb with seq := .opening .o10 r i f }
  | .o10 => { s.emptyRing with seq := .opening .o11 r i f }
  | .o11 => { s.latch 1#32 with baudRate := r, seq := .idle }

/-- CLOSE's first atomic step K1: the line is disabled before shared state is touched (41_lifecycle R141). -/
def State.closeStart (s : State) : State := { s.lineOff s.cfg.irq with seq := .closing .k2 }

/-- CLOSE (41_lifecycle R141): the bus transaction; the rest is `closeMicro`. -/
def execCloseDev (s : State) : Result := whenFree s (.next s.closeStart)

/-- The micro-steps K2 and K3 of CLOSE (41_lifecycle R141). -/
def State.closeMicro (s : State) (k : CloseStep) : State :=
  match k with
  | .k2 => { s with baudRate := 0#32, seq := .closing .k3 }
  | .k3 => { s.emptyRing.latch 1#32 with seq := .idle }

/-- IS_OPEN (41_lifecycle R144): one RD_STATUS, the answer its bit 0. -/
def execIsOpen (s : State) : Result :=
  whenFree s (.next (s.reply (.value (s.statusWord.getLsbD 0).toNat)))

end Sys2Proof.Machine
end

