-- ==== Sys2Proof/Machine/Observe.lean ====
section
/-! DEFINITION. The observation registers (46_observation R215 to R221): each answers a word and changes
nothing else. -/

namespace Sys2Proof.Machine

/-- A host READ of a register whose read has no side effect (46_observation R215). -/
def observe (s : State) (w : Word) : Result := whenFree s (.next (s.reply (.rdata w)))

/-- RD_STATUS (46_observation R216). -/
def execRdStatus (s : State) : Result := observe s s.statusWord
/-- RD_PTRS (46_observation R217). -/
def execRdPtrs (s : State) : Result := observe s s.hc
/-- RD_OVERRUN (46_observation R218). -/
def execRdOverrun (s : State) : Result := observe s s.overrunCount
/-- RD_BAUD (46_observation R219). -/
def execRdBaud (s : State) : Result := observe s s.baudRate
/-- RD_RESULT (46_observation R220). -/
def execRdResult (s : State) : Result := observe s s.lastResult
/-- RD_IBRD (46_observation R221). -/
def execRdIbrd (s : State) : Result := observe s (s.ibrd.setWidth 32)
/-- RD_FBRD (46_observation R221). -/
def execRdFbrd (s : State) : Result := observe s (s.fbrd.setWidth 32)
/-- RD_LCRH (46_observation R221). -/
def execRdLcrh (s : State) : Result := observe s (s.lcrh.setWidth 32)
/-- RD_CR (46_observation R221). -/
def execRdCr (s : State) : Result := observe s (s.cr.setWidth 32)
/-- RD_IMSC (46_observation R221). -/
def execRdImsc (s : State) : Result := observe s (s.imsc.setWidth 32)

end Sys2Proof.Machine
end

