-- ==== Sys2Proof/Machine/Ring.lean ====
section
/-! DEFINITION. RECEIVE, READ, READ_INTO and AVAILABLE (43_ring_buffer). -/

namespace Sys2Proof.Machine

/-- RECEIVE (43_ring_buffer R171), with `accepted` answered to its caller; never latched (R100). -/
def execReceive (b : Byte) (s : State) : Result :=
  .next ((s.enqueue b).2.reply (.accepted (s.enqueue b).1))

/-- The bus transaction READ (43_ring_buffer R174). -/
def readPop (s : State) : Result :=
  match s.dequeue with
  | some (_, t) => .next t
  | none => .fault .noSuchSlot

/-- READ (43_ring_buffer R174). -/
def execRead (s : State) : Result := whenFree s (readPop s)

/-- READ_INTO returns: the count and the caller's buffer (43_ring_buffer R176). -/
def State.endReadInto (s : State) (out : List Byte) (n : Nat) : State :=
  { s.reply (.copied n out) with loop := .quiet }

/-- One iteration of READ_INTO's loop: at most one READ transaction, the tests of the loop that need no
transaction folded into the same step (43_ring_buffer R176, log 14). -/
def readIntoTurn (out : List Byte) (max n : Nat) (s : State) : Result :=
  if n < max then
    match s.dequeue with
    | none => .fault .noSuchSlot
    | some (w, t) =>
      if validBit w then
        if n + 1 < max then
          .next { t with loop := .readInto (out.set n (dataByte w)) max (n + 1) }
        else .next (t.endReadInto (out.set n (dataByte w)) (n + 1))
      else .next (t.endReadInto out n)
  else .next (s.endReadInto out n)

/-- READ_INTO (43_ring_buffer R176): its first iteration; `max ≤ len(out)` is required (R176 (g)). -/
def execReadInto (out : List Byte) (max : Nat) (s : State) : Result :=
  whenFree s (if max ≤ out.length then readIntoTurn out max 0 s else .refused .callerBufferTooShort)

/-- AVAILABLE (43_ring_buffer R178). -/
def execAvailable (s : State) : Result := whenFree s (.next (s.reply (.rdata (s.count.setWidth 32))))

end Sys2Proof.Machine
end

