-- ==== Sys2Proof/Machine/Transmit.lean ====
section
/-! DEFINITION. WRITE, WRITE_BUF, FLUSH and TX_EMIT (44_transmit). -/

namespace Sys2Proof.Machine

/-- WRITE (44_transmit R191, R192). -/
def execWrite (b : Byte) (s : State) : Result := whenFree s (.next (s.transmit b))

/-- WRITE_BUF's loop: one WRITE, and the return with the last one (44_transmit R193, log 14). -/
def State.writeBufTurn (s : State) (rest : List Byte) (len : Nat) : State :=
  match rest with
  | [] => { s.reply (.value len) with loop := .quiet }
  | [b] => { (s.transmit b).reply (.value len) with loop := .quiet }
  | b :: c :: more => { s.transmit b with loop := .writeBuf (c :: more) len }

/-- WRITE_BUF (44_transmit R193): its first WRITE; with no bytes, no transaction. -/
def execWriteBuf (bytes : List Byte) (s : State) : Result :=
  whenFree s (.next (s.writeBufTurn bytes bytes.length))

/-- FLUSH (44_transmit R194): waits for nothing. -/
def execFlush (s : State) : Result := whenFree s (.next (s.latch 0#32))

/-- TX_EMIT (44_transmit R196). -/
def execTxEmit (s : State) : Result :=
  if s.txEnabled then
    match s.txHold with
    | some b => .next { s with txLog := s.txLog ++ [b], txHold := none }
    | none => .refused (.notEnabled .lineTx)
  else .refused (.notEnabled .lineTx)

end Sys2Proof.Machine
end

