-- ==== Sys2Proof/Machine/Primitives.lean ====
section
/-! DEFINITION. The register primitives as the sequencer and the dispatcher perform them
(40_register_primitives R121 to R123), on every register the rules give them a meaning on. -/

namespace Sys2Proof.Machine

/-- REG_READ (40_register_primitives R121): RXPOP is the operation READ, DR empties `rx_hold`, the four
registers without storage have no value (46_observation R222). -/
def execRegRead (reg : Reg) (s : State) : Result :=
  match reg with
  | .dr => .next (s.takeRx.2.reply (.rdata s.takeRx.1))
  | .rxpop => readPop s
  | .close | .flush | .rxhadd | .rxhclr => .refused (.noMeaningOn .read reg)
  | .ibrd | .fbrd | .lcrh | .cr | .imsc | .baud | .status | .fill | .ptrs | .overrun | .result =>
    match s.valueOf reg with
    | some w => .next (s.reply (.rdata w))
    | none => .refused (.noMeaningOn .read reg)

/-- SET_BITS (40_register_primitives R122): on the registers with a stored value; "not admitted anywhere
and has no meaning" on DR and RXPOP, and none is given on the others (log 15). -/
def execSetBits (reg : Reg) (mask : Word) (s : State) : Result :=
  match reg with
  | .ibrd | .fbrd | .lcrh | .cr | .imsc => .next (s.setBitsStored reg mask)
  | .dr | .baud | .close | .status | .fill | .rxpop | .flush | .rxhadd | .rxhclr | .ptrs | .overrun
  | .result => .refused (.noMeaningOn .setBits reg)

/-- WRITE_HARD (40_register_primitives R123): a plain store where the register has storage, and the
operation the register starts, if any (log 16). STATUS, FILL, RXPOP, PTRS, OVERRUN and RESULT have
neither: nothing changes (log 15). -/
def execWriteHard (reg : Reg) (value : Word) (s : State) : Result :=
  match reg with
  | .ibrd | .fbrd | .lcrh | .cr | .imsc => .next (s.writeHardStored reg value)
  | .dr => execWrite (dataByte value) s
  | .baud => execOpenDev value s
  | .close => execCloseDev s
  | .flush => execFlush s
  | .rxhadd => execAddReceiveHandler value s
  | .rxhclr => execClearReceiveHandlers s
  | .status | .fill | .rxpop | .ptrs | .overrun | .result => .next s

end Sys2Proof.Machine
end

