-- ==== Sys2Proof/Machine/Dispatch.lean ====
section
/-! DEFINITION. One arm per operation. -/

namespace Sys2Proof.Machine

def exec (i : Instr) (s : State) : Host.Outcome State Fault Refusal :=
  match i with
  | .openDev r => Sys2Proof.Machine.execOpenDev r s
  | .closeDev => Sys2Proof.Machine.execCloseDev s
  | .rdStatus => Sys2Proof.Machine.execRdStatus s
  | .available => Sys2Proof.Machine.execAvailable s
  | .read => Sys2Proof.Machine.execRead s
  | .write b => Sys2Proof.Machine.execWrite b s
  | .flush => Sys2Proof.Machine.execFlush s
  | .addReceiveHandler cb => Sys2Proof.Machine.execAddReceiveHandler cb s
  | .clearReceiveHandlers => Sys2Proof.Machine.execClearReceiveHandlers s
  | .rdPtrs => Sys2Proof.Machine.execRdPtrs s
  | .rdOverrun => Sys2Proof.Machine.execRdOverrun s
  | .rdBaud => Sys2Proof.Machine.execRdBaud s
  | .rdResult => Sys2Proof.Machine.execRdResult s
  | .rdIbrd => Sys2Proof.Machine.execRdIbrd s
  | .rdFbrd => Sys2Proof.Machine.execRdFbrd s
  | .rdLcrh => Sys2Proof.Machine.execRdLcrh s
  | .rdCr => Sys2Proof.Machine.execRdCr s
  | .rdImsc => Sys2Proof.Machine.execRdImsc s
  | .isOpen => Sys2Proof.Machine.execIsOpen s
  | .readInto out max => Sys2Proof.Machine.execReadInto out max s
  | .writeBuf bytes => Sys2Proof.Machine.execWriteBuf bytes s
  | .receive b => Sys2Proof.Machine.execReceive b s
  | .dispatch => Sys2Proof.Machine.execDispatch s
  | .rxDeliver b => Sys2Proof.Machine.execRxDeliver b s
  | .txEmit => Sys2Proof.Machine.execTxEmit s
  | .regRead reg => Sys2Proof.Machine.execRegRead reg s
  | .setBits reg mask => Sys2Proof.Machine.execSetBits reg mask s
  | .writeHard reg value => Sys2Proof.Machine.execWriteHard reg value s
  | .enableLine irq => Sys2Proof.Machine.execEnableLine irq s
  | .disableLine irq => Sys2Proof.Machine.execDisableLine irq s
  | .bindHandler irq h => Sys2Proof.Machine.execBindHandler irq h s

end Sys2Proof.Machine
end

