-- ==== Sys2Proof/Machine/Agents.lean ====
section
/-! DEFINITION. The step of each agent (10_state R20), and the turn that picks one of them. -/

namespace Sys2Proof.Machine

/-- Run the operation a transaction word decodes to; a word outside the admitted set has no meaning
(30_encoding R99, R103). -/
def runWord (t : TxnWord) (s : State) : Result :=
  match decode t with
  | .ok i => exec i s
  | .error e => .refused (.transaction e)

/-- The foreground issues one operation (30_encoding R96, R108, R112; 45_binding R208). -/
def issue (op : HostOp) (s : State) : Result :=
  match op with
  | .bus t => runWord t s
  | .access k addr data =>
    match busTransaction s.cfg k addr data with
    | some t => runWord t s
    | none => .refused .outsideWindow
  | .isOpen => exec .isOpen s
  | .readInto out max => exec (.readInto out max) s
  | .writeBuf bytes => exec (.writeBuf bytes) s
  | .enableLine irq => exec (.enableLine irq) s
  | .disableLine irq => exec (.disableLine irq) s
  | .bindHandler irq h => exec (.bindHandler irq h) s

/-- A step of FG: the operation in progress goes on; when none is, the next one is issued (10_state R20,
R33); with none left the foreground does nothing (log 4). -/
def stepFG (s : State) : Result :=
  match s.seq with
  | .opening k r i f => .next (s.openMicro k r i f)
  | .closing k => .next (s.closeMicro k)
  | .idle =>
    match s.loop with
    | .readInto out max n => readIntoTurn out max n s
    | .writeBuf rest len => .next (s.writeBufTurn rest len)
    | .quiet =>
      match s.host with
      | [] => .next s
      | op :: ops => issue op { s with host := ops }

/-- A step of DISP; the turn passes when R239 does not hold (log 3). -/
def stepDISP (s : State) : Result := if s.dispatchEnabled then exec .dispatch s else .next s

/-- A step of LINE_RX (60_exceptions R238). -/
def stepLineRx (b : Byte) (s : State) : Result := exec (.rxDeliver b) s

/-- A step of LINE_TX; the turn passes when it is not enabled (44_transmit R196, log 3). -/
def stepLineTx (s : State) : Result := if s.emitEnabled then exec .txEmit s else .next s

/-- The step of the agent whose turn it is, or the event RESET. -/
def takeTurn (t : Turn) (s : State) : Result :=
  match t with
  | .fg => stepFG s
  | .disp => stepDISP s
  | .lineRx b => stepLineRx b s
  | .lineTx => stepLineTx s
  | .reset => .next s.applyReset

/-- The turn the schedule gives next, and the state with it taken off; the foreground moves when the
schedule says nothing (log 2). -/
def State.nextTurn (s : State) : Turn × State :=
  match s.sched with
  | [] => (.fg, s)
  | t :: rest => (t, { s with sched := rest })

end Sys2Proof.Machine
end

