-- ==== Sys2Proof/Machine/Step.lean ====
section
/-! DEFINITION. One step of the machine: one atomic step of one agent (00_scope R12, 20_memory R72). -/

namespace Sys2Proof.Machine

/-- The step. -/
def step (s : State) : Host.Outcome State Fault Refusal := takeTurn s.nextTurn.1 s.nextTurn.2

/-- `s` with the transaction word `w` as the very next thing the foreground issues, the foreground free
and its turn first. A program is loaded from outside; this stands for that load (log 4). -/
def State.withFetchWord (s : State) (_nbits w : Nat) : State :=
  { s with
    seq := .idle
    loop := .quiet
    host := .bus (BitVec.ofNat 48 w) :: s.host
    sched := .fg :: s.sched }

end Sys2Proof.Machine
end

