-- ==== Sys2Proof/Safety.lean ====
section
/-! DEFINITION. What counts as a safe run, in the terms claims use: the invariants of the machine, the
programs inside the admitted subset, and runs of one agent. -/

namespace Sys2Proof.Machine

/-- The structural invariant: parameters in range, the invariants of 10_state R27 (I-a), (I-b), the ring
buffer's storage canonical with every live slot written (10_state R26), the values the line-side
registers can hold (10_state R36 to R38, U12), and one operation at a time (10_state R20, R33), a CLOSE in
progress with the line disabled (41_lifecycle R141, 60_exceptions R256; log 23). -/
structure Sound (s : State) : Prop where
  cfgOk : s.cfg.wf
  countLe : s.count.toNat ≤ s.cfg.n
  headLt : s.head.toNat < s.cfg.n
  bufOk : s.buf.wf = true
  slotsOk : ∀ c ∈ s.buf, c.1 < s.cfg.n
  liveWritten : ∀ i < s.count.toNat, (s.buf.read ((s.head.toNat + i) % s.cfg.n)).isSome = true
  lcrhVal : s.lcrh = 0x00#8 ∨ s.lcrh = 0x60#8
  crVal : s.cr = 0x0000#16 ∨ s.cr = 0x0301#16
  imscVal : s.imsc = 0x000#11 ∨ s.imsc = 0x010#11
  oneOperation : s.seq = .idle ∨ s.loop = .quiet
  openLatched : ∀ k r i f, s.seq = .opening k r i f →
    baudDiv s.cfg.clk r = { i := i, f := f, accept := true }
  closingDisarmed : ∀ k, s.seq = .closing k → s.vicEnabled = false
  loopRoom : ∀ out max n, s.loop = .readInto out max n → n < max ∧ max ≤ out.length

/-- Transmit faithfulness (44_transmit R197): until an overlap, what left on the wire followed by what
waits is what the enabled WRITEs were given. -/
def TxFaithful (s : State) : Prop :=
  s.txCorrupt = false → s.txLog ++ s.txHold.toList = s.txSeq

/-- Receive order up to the dispatcher (60_exceptions R255): the bytes offered to RECEIVE, followed by the
one that waits, are the bytes the line delivered. -/
def RxOrdered (s : State) : Prop := s.offered ++ s.rxHold.toList = s.rxSeq

/-- Receive order through the ring buffer (43_ring_buffer R180, 20_memory R74): since the last reset of
`hc`, the bytes READ returned, followed by the live window, are the bytes RECEIVE accepted, and these
are a subsequence of the bytes offered. -/
def Fifo (s : State) : Prop :=
  s.returned.map some ++ s.window = s.accepted.map some ∧ List.Sublist s.accepted s.offered

/-- How far an OPEN in progress has programmed the block when `k` is next (41_lifecycle R137). -/
def OpenStep.done : OpenStep → Nat
  | .o3 => 0 | .o4 => 1 | .o5 => 2 | .o6 => 3 | .o7 => 4 | .o8 => 5 | .o9 => 6 | .o10 => 7 | .o11 => 8

/-- What OPEN has programmed so far, in its order (20_memory R73; of the line and the handler, log 23), and
what an Open device holds (41_lifecycle R140). -/
structure Programmed (s : State) : Prop where
  progress : ∀ k r i f, s.seq = .opening k r i f →
    (1 ≤ k.done → s.ibrd = i) ∧ (2 ≤ k.done → s.fbrd = f) ∧ (3 ≤ k.done → s.lcrh = 0x60#8)
      ∧ (4 ≤ k.done → s.cr = 0x0301#16) ∧ (5 ≤ k.done → s.rxim = true)
      ∧ (6 ≤ k.done → s.vicEnabled = true)
      ∧ (7 ≤ k.done → s.vicHandler = some s.cfg.rxcb)
  divisors : s.baudRate ≠ 0#32 → (∀ k r i f, s.seq ≠ .opening k r i f) →
    baudDiv s.cfg.clk s.baudRate = { i := s.ibrd, f := s.fbrd, accept := true }
  configured : s.baudRate ≠ 0#32 →
    s.lcrh = 0x60#8 ∧ s.cr = 0x0301#16 ∧ s.rxim = true ∧ s.vicHandler.isSome = true

/-- The transaction word a host operation puts on the bus, for the operations that are one transaction
(30_encoding R90, R112). -/
def HostOp.word (c : Config) : HostOp → Option TxnWord
  | .bus t => some t
  | .access k addr data => busTransaction c k addr data
  | .isOpen | .readInto _ _ | .writeBuf _ | .enableLine _ | .disableLine _ | .bindHandler _ _ => none

/-- A host operation inside the admitted subset: a transaction the decoder does not refuse
(30_encoding R103), READ_INTO with room for `max` bytes (43_ring_buffer R176 (g)). -/
def HostOp.admittedIn (c : Config) : HostOp → Bool
  | .bus t => (decode t).toOption.isSome
  | .access k addr data => ((busTransaction c k addr data).bind fun t => (decode t).toOption).isSome
  | .readInto out max => decide (max ≤ out.length)
  | .isOpen | .writeBuf _ | .enableLine _ | .disableLine _ | .bindHandler _ _ => true

/-- Every host operation still to come is inside the admitted subset. -/
def State.programAdmitted (s : State) : Bool := s.host.all (HostOp.admittedIn s.cfg)

/-- RECEIVE of each byte in turn (43_ring_buffer R179). -/
def receiveAll : List Byte → State → Result
  | [], s => .next s
  | b :: bs, s =>
    match exec (.receive b) s with
    | .next t => receiveAll bs t
    | .fault r => .fault r
    | .refused r => .refused r

/-- A schedule in which the event RESET does not occur. -/
def noReset (ts : List Turn) : Bool := ts.all fun t => decide (t ≠ .reset)

/-- How many turns of a schedule are the foreground's. -/
def fgTurns (ts : List Turn) : Nat := ts.count .fg

end Sys2Proof.Machine
end

