-- ==== Sys2Proof/Certificates/Slice0/Obligations.lean ====
section
/-! DEFINITION. The statements for the provers: one `def Obligations.<Name> : Prop` each. -/

open Sys2Proof Sys2Proof.Machine

/-! ## Encoding (30_encoding) -/

/-- 30_encoding R110, R111 and 95_test_vectors 2.1: words written out from the fields. -/
def Obligations.WorkedWordsDecode : Prop :=
  decode 0x81000001C200#48 = .ok (.openDev 115200#32) ∧
  decode 0x810412345678#48 = .ok .closeDev ∧
  decode 0x8000FFFFFF41#48 = .ok (.write 0x41#8) ∧
  decode 0x011000000000#48 = .ok .read ∧
  decode 0x010C00000000#48 = .ok .available ∧
  decode 0x010800000000#48 = .ok .rdStatus ∧
  decode 0x811800001234#48 = .ok (.addReceiveHandler 0x1234#32) ∧
  decode 0x403800000010#48 = .error (.notAdmitted .setBits .imsc) ∧
  decode 0x910000002580#48 = .error .reservedBits ∧
  decode 0xC00000000000#48 = .error .reservedKind ∧
  decode 0x800100000041#48 = .error .misaligned ∧
  decode 0x001800000000#48 = .error .unmapped ∧
  decode 0x000000000000#48 = .error (.notAdmitted .read .dr)

/-- 30_encoding R98, R99: decoding the word of an operation gives that operation, every operand kept. -/
def Obligations.DecodeOfEncode : Prop :=
  ∀ (i : Instr) (t : TxnWord), encode i = some t → decode t = .ok i

/-- 30_encoding R102: what decodes to an operation is, up to ignored bits, the word of that operation. -/
def Obligations.EncodeOfDecode : Prop :=
  ∀ (t : TxnWord) (i : Instr), decode t = .ok i → encode i = some (canonicalForm t)

/-- 30_encoding R102: words that agree on T[47:32] and on the DATA bits the operation takes are the same
operation. -/
def Obligations.IgnoredBitsDoNotMatter : Prop :=
  ∀ (t t' : TxnWord) (i : Instr), decode t = .ok i →
    t' &&& (0xFFFF#16 ++ usedDataMask i) = t &&& (0xFFFF#16 ++ usedDataMask i) → decode t' = .ok i

/-- 30_encoding R98, R99: a word is an operation exactly when T[47:32] is one of the eighteen patterns. -/
def Obligations.AcceptedExactlyByTable : Prop :=
  ∀ t : TxnWord, (∃ i, decode t = .ok i) ↔
    t.extractLsb' 32 16 ∈
      [0x8000#16, 0x0024#16, 0x0028#16, 0x002C#16, 0x0030#16, 0x0038#16, 0x0100#16, 0x8100#16,
       0x8104#16, 0x0108#16, 0x010C#16, 0x0110#16, 0x8114#16, 0x8118#16, 0x811C#16, 0x0120#16,
       0x0124#16, 0x0128#16]

/-- 20_memory R61, 30_encoding R112, 00_scope R10: a primitive at `BASE + OFF` is the transaction with that
OFF, wherever the window stands, and an address outside `BASE .. BASE + 0xFFF` is no transaction.
(Addresses are natural numbers of no stated width: log 25.) -/
def Obligations.AddressedAccessIsTransaction : Prop :=
  ∀ (c : Config) (k : Kind) (d : Word),
    (∀ r : Reg, regAddress c r = c.base + r.offset.toNat ∧
      busTransaction c k (regAddress c r) d = some (k.code ++ 0#2 ++ r.offset ++ d)) ∧
    (∀ off : BitVec 12,
      busTransaction c k (c.base + off.toNat) d = some (k.code ++ 0#2 ++ off ++ d)) ∧
    (∀ addr, addr < c.base ∨ c.base + 0xFFF < addr → busTransaction c k addr d = none)

/-- 30_encoding R109: the written form of a primitive keeps its register and its value, and no written
SET_BITS passes the host decoder (R97). -/
def Obligations.WrittenFormsRoundTrip : Prop :=
  ∀ (i : Instr) (t : TxnWord), writtenForm i = some t →
    readWrittenForm t = some i ∧
      (∀ r m, i = .setBits r m → decode t = .error (.notAdmitted .setBits r))

/-! ## The step -/

/-- 10_state R20, 20_memory R61, 30_encoding R99, R112: when the foreground is free and it is its turn, a
step issues the next transaction, given as a word or as a primitive at an address in the window, and is
`exec` of what its word decodes to, the operation and the turn taken off. (That an empty schedule is the
foreground's turn is the model's choice, log 2.) -/
def Obligations.StepRunsDecodedTransaction : Prop :=
  ∀ (s : State) (op : HostOp) (t : TxnWord) (i : Instr) (ops : List HostOp) (rest : List Turn),
    s.seq = .idle → s.loop = .quiet → s.host = op :: ops → op.word s.cfg = some t →
    (s.sched = .fg :: rest ∨ s.sched = [] ∧ rest = []) → decode t = .ok i →
    step s = exec i { s with host := ops, sched := rest }

/-- 10_state R20, 30_encoding R108: a step runs the operation of the turn: the pseudo-operations and the
binding calls the foreground issues, and the events of the other three agents. The foreground's turn is a
step of the foreground, whatever it is inside. (The model's choices: an empty schedule is the
foreground's turn, log 2; the turn of an agent that is not enabled passes, log 3.) -/
def Obligations.StepRunsPseudoOperationsAndEvents : Prop :=
  ∀ (s : State) (ops : List HostOp) (rest : List Turn),
    (s.sched = .fg :: rest → step s = stepFG { s with sched := rest }) ∧
    (s.sched = [] → step s = stepFG s) ∧
    (s.seq = .idle → s.loop = .quiet → s.sched = .fg :: rest →
      (s.host = .isOpen :: ops → step s = exec .isOpen { s with host := ops, sched := rest }) ∧
      (∀ out max, s.host = .readInto out max :: ops →
        step s = exec (.readInto out max) { s with host := ops, sched := rest }) ∧
      (∀ bytes, s.host = .writeBuf bytes :: ops →
        step s = exec (.writeBuf bytes) { s with host := ops, sched := rest }) ∧
      (∀ irq, s.host = .enableLine irq :: ops →
        step s = exec (.enableLine irq) { s with host := ops, sched := rest }) ∧
      (∀ irq, s.host = .disableLine irq :: ops →
        step s = exec (.disableLine irq) { s with host := ops, sched := rest }) ∧
      (∀ irq h, s.host = .bindHandler irq h :: ops →
        step s = exec (.bindHandler irq h) { s with host := ops, sched := rest })) ∧
    (∀ b, s.sched = .lineRx b :: rest → step s = exec (.rxDeliver b) { s with sched := rest }) ∧
    (s.sched = .disp :: rest → s.dispatchEnabled = true →
      step s = exec .dispatch { s with sched := rest }) ∧
    (s.sched = .disp :: rest → s.dispatchEnabled = false → step s = .next { s with sched := rest }) ∧
    (s.sched = .lineTx :: rest → s.emitEnabled = true →
      step s = exec .txEmit { s with sched := rest }) ∧
    (s.sched = .lineTx :: rest → s.emitEnabled = false → step s = .next { s with sched := rest })

/-- 30_encoding R103, 20_memory R61: a refused transaction, given as a word or as a primitive at an
address in the window, has no meaning: the step is refused, with the decoder's reason. An address outside
the window does not reach the block: the step is refused as `outsideWindow`. (The model's choices: the
second stop, log 5; an empty schedule is the foreground's turn, log 2.) -/
def Obligations.StepRefusesTransaction : Prop :=
  ∀ (s : State) (op : HostOp) (ops : List HostOp) (rest : List Turn),
    s.seq = .idle → s.loop = .quiet → s.host = op :: ops →
    (s.sched = .fg :: rest ∨ s.sched = [] ∧ rest = []) →
    (∀ t e, op.word s.cfg = some t → decode t = .error e → step s = .refused (.transaction e)) ∧
    (∀ k addr d, op = .access k addr d → (addr < s.cfg.base ∨ s.cfg.base + 0xFFF < addr) →
      step s = .refused .outsideWindow)

/-! ## The divisor engine (42_baud_divisor) -/

/-- 42_baud_divisor R156, R157, R158, R159: the outputs for `R ≥ 1`, and the rejection of `R = 0`. -/
def Obligations.DivisorFormula : Prop :=
  ∀ (clk : Nat) (r : Word),
    (r = 0#32 → (baudDiv clk r).accept = false) ∧
    (r ≠ 0#32 →
      (baudDiv clk r).i.toNat = min (clk / (16 * r.toNat)) 65535 ∧
      8 * (clk % (16 * r.toNat)) / r.toNat ≤ 127 ∧
      8 * (clk % (16 * r.toNat)) / r.toNat = 128 * (clk % (16 * r.toNat)) / (16 * r.toNat) ∧
      8 * (clk % (16 * r.toNat)) / r.toNat / 2 + 8 * (clk % (16 * r.toNat)) / r.toNat % 2 ≤ 64 ∧
      (baudDiv clk r).f.toNat =
        (8 * (clk % (16 * r.toNat)) / r.toNat / 2 + 8 * (clk % (16 * r.toNat)) / r.toNat % 2) % 64 ∧
      ((baudDiv clk r).accept = true ↔
        (baudDiv clk r).i.toNat ≠ 0 ∧ (baudDiv clk r).i.toNat ≠ 65535))

/-- 42_baud_divisor R161: when the fraction rounds up to a whole unit it wraps to 0 and the unit is not
carried into `I`. -/
def Obligations.FractionWrapDoesNotCarry : Prop :=
  ∀ (clk : Nat) (r : Word), r ≠ 0#32 → 8 * (clk % (16 * r.toNat)) / r.toNat = 127 →
    (baudDiv clk r).f = 0#6 ∧ (baudDiv clk r).i.toNat = min (clk / (16 * r.toNat)) 65535

/-- 42_baud_divisor R162 (b): the accepted range, for every clock. -/
def Obligations.AcceptedRange : Prop :=
  ∀ (clk : Nat) (r : Word),
    (baudDiv clk r).accept = true ↔ clk / (16 * 65535) < r.toNat ∧ r.toNat ≤ clk / 16

/-- 42_baud_divisor R164, 90_conflicts C2: the pinned divisors of 115200 baud, and the corner rows. -/
def Obligations.WorkedDivisors : Prop :=
  baudDiv 24000000 115200#32 = { i := 13#16, f := 1#6, accept := true } ∧
  baudDiv 24000000 307#32 = { i := 4885#16, f := 0#6, accept := true } ∧
  baudDiv 24000000 22#32 = { i := 65535#16, f := 52#6, accept := false } ∧
  baudDiv 24000000 23#32 = { i := 65217#16, f := 25#6, accept := true } ∧
  baudDiv 24000000 1500000#32 = { i := 1#16, f := 0#6, accept := true } ∧
  (baudDiv 24000000 1500001#32).accept = false ∧
  (baudDiv 1048560 1#32).accept = false ∧
  baudDiv 1048559 1#32 = { i := 65534#16, f := 60#6, accept := true }

/-! ## Lifecycle (41_lifecycle) -/

/-- 41_lifecycle R138: a rejected OPEN closes the device, latches 0, and changes nothing else; what is
rejected. -/
def Obligations.OpenRejectedCloses : Prop :=
  ∀ (s : State) (r : Word),
    ((baudDiv s.cfg.clk r).accept = false ↔
      r = 0#32 ∨ (baudDiv s.cfg.clk r).i = 0#16 ∨ (baudDiv s.cfg.clk r).i = 0xFFFF#16) ∧
    (s.seq = .idle → s.loop = .quiet → (baudDiv s.cfg.clk r).accept = false →
      exec (.openDev r) s = .next { s with baudRate := 0#32, lastResult := 0#32 })

/-- 41_lifecycle R136, R137: the word of OPEN, and its success path step by step: O1 and O2, the bus transaction, latch the
request and the divisors; then each micro-step, what it writes and that it writes nothing else. (The
histories `accepted` and `returned` are the model's own, log 12.) -/
def Obligations.OpenStepsInOrder : Prop :=
  (∀ d : Word, decode (0x8100#16 ++ d) = .ok (.openDev d)) ∧
  ∀ (s : State) (r : Word) (i : BitVec 16) (f : BitVec 6),
    (s.seq = .idle → s.loop = .quiet → baudDiv s.cfg.clk r = { i := i, f := f, accept := true } →
      exec (.openDev r) s = .next { s with seq := .opening .o3 r i f }) ∧
    (s.seq = .opening .o3 r i f → stepFG s = .next { s with ibrd := i, seq := .opening .o4 r i f }) ∧
    (s.seq = .opening .o4 r i f → stepFG s = .next { s with fbrd := f, seq := .opening .o5 r i f }) ∧
    (s.seq = .opening .o5 r i f →
      stepFG s = .next { s with lcrh := 0x60#8, seq := .opening .o6 r i f }) ∧
    (s.seq = .opening .o6 r i f →
      stepFG s = .next { s with cr := 0x0301#16, seq := .opening .o7 r i f }) ∧
    (s.seq = .opening .o7 r i f →
      stepFG s = .next { s with imsc := s.imsc ||| 0x010#11, seq := .opening .o8 r i f }) ∧
    (s.seq = .opening .o8 r i f →
      stepFG s = .next { s with vicEnabled := true, seq := .opening .o9 r i f }) ∧
    (s.seq = .opening .o9 r i f →
      stepFG s = .next { s with vicHandler := some s.cfg.rxcb, seq := .opening .o10 r i f }) ∧
    (s.seq = .opening .o10 r i f →
      stepFG s = .next { s with hc := 0#32, accepted := [], returned := [],
                                seq := .opening .o11 r i f }) ∧
    (s.seq = .opening .o11 r i f →
      stepFG s = .next { s with baudRate := r, lastResult := 1#32, seq := .idle })

/-- 41_lifecycle R137, R140: whatever the other agents do in between, an accepted OPEN is through after
ten steps of the foreground, and leaves the device Open, programmed and armed. (The other agents are DISP
and the two sides of the line: that no other software calls the binding in between is log 23.) -/
def Obligations.OpenCompletesUnderAnyInterleaving : Prop :=
  ∀ (s : State) (t : TxnWord) (r : Word) (ops : List HostOp) (ts : List Turn),
    s.seq = .idle → s.loop = .quiet → s.host = .bus t :: ops → decode t = .ok (.openDev r) →
    (baudDiv s.cfg.clk r).accept = true → s.sched = ts → noReset ts = true → fgTurns ts = 10 →
    ts.getLast? = some .fg →
    ∃ u, Host.Core.run core ts.length s = .next u ∧ u.seq = .idle ∧ u.loop = .quiet ∧ u.host = ops ∧
      u.baudRate = r ∧ u.lastResult = 1#32 ∧ u.ibrd = (baudDiv s.cfg.clk r).i ∧
      u.fbrd = (baudDiv s.cfg.clk r).f ∧ u.lcrh = 0x60#8 ∧ u.cr = 0x0301#16 ∧
      u.imsc = s.imsc ||| 0x010#11 ∧ u.vicEnabled = true ∧ u.vicHandler = some s.cfg.rxcb

/-- 41_lifecycle R141: the word of CLOSE, and CLOSE step by step: K1, the bus transaction, disables the line first; K2 closes; K3
empties the ring buffer and latches 1. -/
def Obligations.CloseStepsInOrder : Prop :=
  (∀ d : Word, decode (0x8104#16 ++ d) = .ok .closeDev) ∧
  ∀ s : State,
    (s.seq = .idle → s.loop = .quiet →
      exec .closeDev s = .next { s with vicEnabled := false, seq := .closing .k2 }) ∧
    (s.seq = .closing .k2 → stepFG s = .next { s with baudRate := 0#32, seq := .closing .k3 }) ∧
    (s.seq = .closing .k3 →
      stepFG s = .next { s with hc := 0#32, lastResult := 1#32, accepted := [], returned := [],
                                seq := .idle })

/-- 41_lifecycle R141, 20_memory R82: whatever the other agents do in between, CLOSE is through after
three steps of the foreground and leaves the device Closed, disarmed and empty, and the line-side
registers, the binding, the counter and the slots as they were. (That no other software calls the
binding in between is log 23.) -/
def Obligations.CloseCompletesUnderAnyInterleaving : Prop :=
  ∀ (s : State) (t : TxnWord) (ops : List HostOp) (ts : List Turn),
    s.seq = .idle → s.loop = .quiet → s.host = .bus t :: ops → decode t = .ok .closeDev →
    s.sched = .fg :: ts → noReset ts = true → fgTurns ts = 2 → ts.getLast? = some .fg →
    ∃ u, Host.Core.run core (ts.length + 1) s = .next u ∧ u.seq = .idle ∧ u.loop = .quiet ∧
      u.host = ops ∧ u.baudRate = 0#32 ∧ u.hc = 0#32 ∧ u.lastResult = 1#32 ∧ u.vicEnabled = false ∧
      u.ibrd = s.ibrd ∧ u.fbrd = s.fbrd ∧ u.lcrh = s.lcrh ∧ u.cr = s.cr ∧ u.imsc = s.imsc ∧
      u.vicHandler = s.vicHandler ∧ u.overrunCount = s.overrunCount ∧ u.buf = s.buf ∧
      u.txCorrupt = s.txCorrupt

/-- 41_lifecycle R144: IS_OPEN answers 1 exactly when `baud_rate` is not 0, and changes nothing else. -/
def Obligations.IsOpenAnswers : Prop :=
  ∀ s : State, s.seq = .idle → s.loop = .quiet →
    exec .isOpen s = .next { s with answer := .value (if s.baudRate = 0#32 then 0 else 1) }

/-- 41_lifecycle R135, 10_state R22: `baud_rate` changes only by the last micro-step of OPEN (to the
request), by K2 of CLOSE or by the transaction of an OPEN whose divisor is rejected (to 0), or by
RESET. -/
def Obligations.LifecycleChangesOnlyByOpenAndClose : Prop :=
  ∀ s t : State, step s = .next t → t.baudRate ≠ s.baudRate →
    s.nextTurn.1 = .reset ∨
    (s.nextTurn.1 = .fg ∧
      ((∃ i f, s.seq = .opening .o11 t.baudRate i f) ∨
       (s.seq = .closing .k2 ∧ t.baudRate = 0#32) ∨
       (∃ op ops w r, s.seq = .idle ∧ s.loop = .quiet ∧ s.host = op :: ops ∧ op.word s.cfg = some w ∧
          decode w = .ok (.openDev r) ∧ (baudDiv s.cfg.clk r).accept = false ∧
          t.baudRate = 0#32 ∧ t.lastResult = 0#32 ∧ t.seq = .idle ∧ t.host = ops)))

/-- 41_lifecycle R146: no operation is gated on the lifecycle state. With any other `baud_rate` every
operation ends in the same way and leaves the same state but for `baud_rate`, which stays; the five that
report it (IS_OPEN, RD_STATUS, RD_BAUD, and REG_READ of BAUD and STATUS) may differ in their answer; a
rejected OPEN leaves the same state outright. (Of OPEN and CLOSE this is their first step; their later
ones do not look at it by `OpenStepsInOrder` and `CloseStepsInOrder`.) -/
def Obligations.DataOperationsIgnoreLifecycle : Prop :=
  ∀ (s : State) (rate : Word),
    (∀ i : Instr, i ≠ .isOpen → i ≠ .rdStatus → i ≠ .rdBaud → i ≠ .regRead .baud → i ≠ .regRead .status →
      (∀ r, i = .openDev r ∨ i = .writeHard .baud r → (baudDiv s.cfg.clk r).accept = true) →
      exec i { s with baudRate := rate } =
        match exec i s with
        | .next t => .next { t with baudRate := rate }
        | .fault e => .fault e
        | .refused e => .refused e) ∧
    (∀ i : Instr, i = .isOpen ∨ i = .rdStatus ∨ i = .rdBaud ∨ i = .regRead .baud ∨ i = .regRead .status →
      ∃ a, exec i { s with baudRate := rate } =
        match exec i s with
        | .next t => .next { t with baudRate := rate, answer := a }
        | .fault e => .fault e
        | .refused e => .refused e) ∧
    (∀ r, (baudDiv s.cfg.clk r).accept = false →
      exec (.openDev r) { s with baudRate := rate } = exec (.openDev r) s ∧
      exec (.writeHard .baud r) { s with baudRate := rate } = exec (.writeHard .baud r) s)

/-! ## Ring buffer (43_ring_buffer) -/

/-- 43_ring_buffer R171: RECEIVE with room stores the byte at slot `(head + count) mod N`, raises `count`,
answers true, and touches no other slot; with the buffer full it answers false and only counts the
overrun, saturating. (The histories `offered` and `accepted` are the model's own, log 12.) -/
def Obligations.ReceiveStoresOrDrops : Prop :=
  ∀ (s : State) (b : Byte), s.cfg.wf →
    (s.count.toNat < s.cfg.n →
      ∃ t, exec (.receive b) s = .next t ∧ t.answer = .accepted true ∧
        t.head = s.head ∧ t.count.toNat = s.count.toNat + 1 ∧
        t.buf.read ((s.head.toNat + s.count.toNat) % s.cfg.n) = some b ∧
        (∀ a, a ≠ (s.head.toNat + s.count.toNat) % s.cfg.n → t.buf.read a = s.buf.read a) ∧
        t = { s with hc := t.hc, buf := t.buf, offered := s.offered ++ [b],
                     accepted := s.accepted ++ [b], answer := .accepted true }) ∧
    (s.count.toNat = s.cfg.n →
      ∃ w : Word, w.toNat = min (s.overrunCount.toNat + 1) 0xFFFFFFFF ∧
        exec (.receive b) s = .next { s with overrunCount := w, offered := s.offered ++ [b],
                                             answer := .accepted false })

/-- 43_ring_buffer R174, R175: the word of READ; READ of an empty buffer answers 0 and changes nothing; of a non-empty one
it answers VALID and the byte of slot `head`, advances `head` by one modulo N, lowers `count`, leaves
every slot, and `last_result` and the lifecycle state with it. (The history `returned` is the model's own,
log 12.) -/
def Obligations.ReadDequeuesByte : Prop :=
  (∀ d : Word, decode (0x0110#16 ++ d) = .ok .read) ∧
  ∀ s : State, s.seq = .idle → s.loop = .quiet → s.cfg.wf →
    (s.count = 0#16 → exec .read s = .next { s with answer := .rdata 0#32 }) ∧
    (∀ b, s.count ≠ 0#16 → s.head.toNat < s.cfg.n → s.buf.read s.head.toNat = some b →
      ∃ t, exec .read s = .next t ∧ t.answer = .rdata (0x100#32 ||| b.setWidth 32) ∧
        t.head.toNat = (s.head.toNat + 1) % s.cfg.n ∧ t.count.toNat + 1 = s.count.toNat ∧
        t = { s with hc := t.hc, answer := t.answer, returned := s.returned ++ [b] })

/-- 43_ring_buffer R178: the word of AVAILABLE; it answers `count` and changes nothing. -/
def Obligations.AvailableAnswersCount : Prop :=
  (∀ d : Word, decode (0x010C#16 ++ d) = .ok .available) ∧
  ∀ s : State, s.seq = .idle → s.loop = .quiet →
    ∃ w : Word, w.toNat = s.count.toNat ∧ exec .available s = .next { s with answer := .rdata w }

/-- 43_ring_buffer R176, 70_reset R281: every iteration of READ_INTO, whatever stepped before it: the
first, with no byte asked for, with none there, with the last one asked for, and with more to come; and
each later one, after `n` bytes, with none there, with the last one asked for, and with more to come.
(That the call returns in the step of its last READ, and is one step when no byte is asked for, is the
model's choice, log 14; the history `returned` is the model's own, log 12.) -/
def Obligations.ReadIntoStarts : Prop :=
  ∀ (s : State) (out : List Byte) (max : Nat), s.seq = .idle → s.cfg.wf → s.head.toNat < s.cfg.n →
    (s.loop = .quiet → max ≤ out.length →
      ∃ t, exec (.readInto out max) s = .next t ∧
        (max = 0 → t = { s with answer := .copied 0 out }) ∧
        (0 < max → s.count = 0#16 → t = { s with answer := .copied 0 out }) ∧
        (∀ x, 0 < max → s.count ≠ 0#16 → s.buf.read s.head.toNat = some x →
          t.head.toNat = (s.head.toNat + 1) % s.cfg.n ∧ t.count.toNat + 1 = s.count.toNat ∧
          (max = 1 → t.answer = .copied 1 (out.set 0 x) ∧ t.loop = .quiet) ∧
          (1 < max → t.loop = .readInto (out.set 0 x) max 1) ∧
          t = { s with hc := t.hc, answer := t.answer, returned := s.returned ++ [x],
                       loop := t.loop })) ∧
    (∀ n, s.loop = .readInto out max n → n < max →
      ∃ t, stepFG s = .next t ∧
        (s.count = 0#16 → t = { s with answer := .copied n out, loop := .quiet }) ∧
        (∀ x, s.count ≠ 0#16 → s.buf.read s.head.toNat = some x →
          t.head.toNat = (s.head.toNat + 1) % s.cfg.n ∧ t.count.toNat + 1 = s.count.toNat ∧
          (n + 1 = max → t.answer = .copied (n + 1) (out.set n x) ∧ t.loop = .quiet) ∧
          (n + 1 < max → t.loop = .readInto (out.set n x) max (n + 1)) ∧
          t = { s with hc := t.hc, answer := t.answer, returned := s.returned ++ [x],
                       loop := t.loop }))

/-- 43_ring_buffer R176 (g), 93_implementation_defined U5: more bytes than the buffer has room for is
outside the admitted subset. -/
def Obligations.ReadIntoNeedsRoom : Prop :=
  ∀ (s : State) (out : List Byte) (max : Nat), s.seq = .idle → s.loop = .quiet →
    out.length < max → exec (.readInto out max) s = .refused .callerBufferTooShort

/-- 43_ring_buffer R176, R181: on a quiet line READ_INTO copies the oldest `min(max, count)` bytes in
order to the front of the caller's buffer, leaves the rest of it unwritten, and issues one probing READ
more only when the buffer ran out first. (The count of steps, and that an empty schedule is the
foreground's turn throughout, are the model's choices, logs 14 and 2.) -/
def Obligations.ReadIntoDrainsQuietLine : Prop :=
  ∀ (s : State) (out bs : List Byte) (max : Nat) (ops : List HostOp), Sound s →
    s.seq = .idle → s.loop = .quiet → s.sched = [] → s.host = .readInto out max :: ops →
    max ≤ out.length → 0 < max → s.window = bs.map some →
    ∃ t, Host.Core.run core (min max (bs.length + 1)) s = .next t ∧
      t.answer = .copied (min max bs.length) (bs.take max ++ out.drop (min max bs.length)) ∧
      t.loop = .quiet ∧ t.host = ops ∧ t.window = (bs.drop max).map some ∧
      t.count.toNat = bs.length - max ∧ t.lastResult = s.lastResult

/-- 43_ring_buffer R179: after N RECEIVEs from empty, `count` is N; one more answers false and changes
neither `count` nor a slot. -/
def Obligations.CapacityIsExactlyN : Prop :=
  ∀ (s : State) (bs : List Byte) (b : Byte), s.cfg.wf → s.count = 0#16 → bs.length = s.cfg.n →
    ∃ t u, receiveAll bs s = .next t ∧ t.count.toNat = s.cfg.n ∧ exec (.receive b) t = .next u ∧
      u.answer = .accepted false ∧ u.hc = t.hc ∧ ∀ a, u.buf.read a = t.buf.read a

/-- 10_state R26, R28; 20_memory R60: only RECEIVE and DISPATCH write slots: every other operation, in every
form, leaves every slot as it was. -/
def Obligations.OnlyReceiveWritesSlots : Prop :=
  ∀ (i : Instr) (s t : State), (∀ b, i ≠ .receive b) → i ≠ .dispatch → exec i s = .next t →
    ∀ a, t.buf.read a = s.buf.read a

/-! ## Transmit (44_transmit) -/

/-- 44_transmit R191: the word of WRITE; WRITE with room, with the transmitter disabled, and R192, onto an occupied holding
register, where the byte left is any byte. -/
def Obligations.WriteCases : Prop :=
  (∀ d : Word, decode (0x8000#16 ++ d) = .ok (.write (d.extractLsb' 0 8))) ∧
  ∀ (s : State) (b : Byte), s.seq = .idle → s.loop = .quiet →
    (s.cr.getLsbD 0 = true → s.cr.getLsbD 8 = true → s.txHold = none →
      exec (.write b) s = .next { s with txHold := some b, lastResult := 1#32,
                                         txSeq := s.txSeq ++ [b] }) ∧
    ((s.cr.getLsbD 0 = false ∨ s.cr.getLsbD 8 = false) →
      exec (.write b) s = .next { s with lastResult := 1#32 }) ∧
    (∀ old, s.cr.getLsbD 0 = true → s.cr.getLsbD 8 = true → s.txHold = some old →
      ∃ x, exec (.write b) s = .next { s with txHold := some x, txCorrupt := true, lastResult := 1#32,
                                              txSeq := s.txSeq ++ [b], draws := s.draws + 1 })

/-- 44_transmit R196: there is a step TX_EMIT exactly when a byte waits and the transmitter is enabled; it
appends the byte to the wire's log, empties the holding register and changes nothing else. -/
def Obligations.EmitMovesByteToWire : Prop :=
  ∀ s : State,
    ((∃ t, exec .txEmit s = .next t) ↔
      s.txHold ≠ none ∧ s.cr.getLsbD 0 = true ∧ s.cr.getLsbD 8 = true) ∧
    (∀ b, s.txHold = some b → s.cr.getLsbD 0 = true → s.cr.getLsbD 8 = true →
      exec .txEmit s = .next { s with txLog := s.txLog ++ [b], txHold := none })

/-- 70_reset_and_hazards R283: a WRITE issued after a poll found TXFF at 0 does not corrupt the output and
keeps the log faithful, and no agent but the foreground can fill the holding register in between. -/
def Obligations.PolledWriteIsSafe : Prop :=
  ∀ (s : State) (b : Byte), s.statusWord.getLsbD 3 = false →
    (s.seq = .idle → s.loop = .quiet → TxFaithful s →
      ∃ t, exec (.write b) s = .next t ∧ t.txCorrupt = s.txCorrupt ∧ TxFaithful t) ∧
    (∀ t, step s = .next t → s.nextTurn.1 ≠ .fg → t.statusWord.getLsbD 3 = false)

/-- 44_transmit R193: every iteration of WRITE_BUF, whatever stepped before it: the first does nothing for
no bytes, else what WRITE does with the first byte; each later one does what WRITE, issued by itself,
does with the next byte; the last returns the whole length. (That the call returns in the step of its last
WRITE, and is one step for no bytes, is the model's choice, log 14.) -/
def Obligations.WriteBufStarts : Prop :=
  ∀ (s : State) (bytes : List Byte), s.seq = .idle →
    (s.loop = .quiet →
      (bytes = [] → exec (.writeBuf bytes) s = .next { s with answer := .value 0 }) ∧
      (∀ b more, bytes = b :: more →
        ∃ t u, exec (.write b) s = .next t ∧ exec (.writeBuf bytes) s = .next u ∧
          (more = [] → u = { t with answer := .value 1 }) ∧
          (more ≠ [] → u = { t with loop := .writeBuf more bytes.length }))) ∧
    (∀ len b more, s.loop = .writeBuf bytes len → bytes = b :: more →
      ∃ t u, exec (.write b) { s with loop := .quiet } = .next t ∧ stepFG s = .next u ∧
        (more = [] → u = { t with answer := .value len }) ∧
        (more ≠ [] → u = { t with loop := .writeBuf more len }))

/-- 44_transmit R193 (b), (c): WRITE_BUF run with nothing in between takes one step a byte, answers the
length, latches 1, and with two bytes or more and the transmitter enabled corrupts the output. (The count
of steps, and that an empty schedule is the foreground's turn throughout, are the model's choices, logs 14
and 2.) -/
def Obligations.WriteBufWithoutPollingCorrupts : Prop :=
  ∀ (s : State) (bytes : List Byte) (ops : List HostOp), s.seq = .idle → s.loop = .quiet →
    s.sched = [] → s.host = .writeBuf bytes :: ops → bytes ≠ [] →
    ∃ t, Host.Core.run core bytes.length s = .next t ∧ t.answer = .value bytes.length ∧
      t.lastResult = 1#32 ∧ t.loop = .quiet ∧ t.host = ops ∧ t.txLog = s.txLog ∧
      (2 ≤ bytes.length → s.cr.getLsbD 0 = true → s.cr.getLsbD 8 = true → t.txCorrupt = true)

/-- 44_transmit R197: every step keeps the transmit path faithful. -/
def Obligations.StepKeepsTransmitFaithful : Prop :=
  ∀ s t : State, TxFaithful s → step s = .next t → TxFaithful t

/-! ## Binding and handlers (45_binding) -/

/-- 45_binding R201, R202, R203: the three calls act on line IRQ alone, and on nothing else. -/
def Obligations.BindingCalls : Prop :=
  ∀ (s : State) (irq : Nat) (h : HandlerRef),
    (irq = s.cfg.irq → exec (.enableLine irq) s = .next { s with vicEnabled := true }) ∧
    (irq = s.cfg.irq → exec (.disableLine irq) s = .next { s with vicEnabled := false }) ∧
    (irq = s.cfg.irq → exec (.bindHandler irq h) s = .next { s with vicHandler := some h }) ∧
    (irq ≠ s.cfg.irq → exec (.enableLine irq) s = .next s ∧ exec (.disableLine irq) s = .next s ∧
      exec (.bindHandler irq h) s = .next s)

/-- 44_transmit R194, 45_binding R205, R206: the words of the three; FLUSH and ADD_RECEIVE_HANDLER latch 0 and do nothing more;
CLEAR_RECEIVE_HANDLERS does nothing at all. -/
def Obligations.StubOperations : Prop :=
  (∀ d : Word, decode (0x8114#16 ++ d) = .ok .flush ∧
    decode (0x8118#16 ++ d) = .ok (.addReceiveHandler d) ∧
    decode (0x811C#16 ++ d) = .ok .clearReceiveHandlers) ∧
  ∀ (s : State) (cb : Word), s.seq = .idle → s.loop = .quiet →
    exec .flush s = .next { s with lastResult := 0#32 } ∧
    exec (.addReceiveHandler cb) s = .next { s with lastResult := 0#32 } ∧
    exec .clearReceiveHandlers s = .next s

/-! ## Observation (46_observation) -/

/-- 46_observation R217 to R221: the words of the other reads; each answers its register, zero-extended,
and changes nothing. -/
def Obligations.ObservationReadsAnswer : Prop :=
  (∀ d : Word, decode (0x0120#16 ++ d) = .ok .rdPtrs ∧ decode (0x0124#16 ++ d) = .ok .rdOverrun ∧
    decode (0x0100#16 ++ d) = .ok .rdBaud ∧ decode (0x0128#16 ++ d) = .ok .rdResult ∧
    decode (0x0024#16 ++ d) = .ok .rdIbrd ∧ decode (0x0028#16 ++ d) = .ok .rdFbrd ∧
    decode (0x002C#16 ++ d) = .ok .rdLcrh ∧ decode (0x0030#16 ++ d) = .ok .rdCr ∧
    decode (0x0038#16 ++ d) = .ok .rdImsc) ∧
  ∀ s : State, s.seq = .idle → s.loop = .quiet →
    exec .rdPtrs s = .next { s with answer := .rdata (s.head ++ s.count) } ∧
    exec .rdOverrun s = .next { s with answer := .rdata s.overrunCount } ∧
    exec .rdBaud s = .next { s with answer := .rdata s.baudRate } ∧
    exec .rdResult s = .next { s with answer := .rdata s.lastResult } ∧
    exec .rdIbrd s = .next { s with answer := .rdata (0#16 ++ s.ibrd) } ∧
    exec .rdFbrd s = .next { s with answer := .rdata (0#26 ++ s.fbrd) } ∧
    exec .rdLcrh s = .next { s with answer := .rdata (0#24 ++ s.lcrh) } ∧
    exec .rdCr s = .next { s with answer := .rdata (0#16 ++ s.cr) } ∧
    exec .rdImsc s = .next { s with answer := .rdata (0#21 ++ s.imsc) }

/-- 46_observation R216: the word of RD_STATUS; it answers STATUS, changing nothing else; every bit of STATUS. -/
def Obligations.StatusBits : Prop :=
  (∀ d : Word, decode (0x0108#16 ++ d) = .ok .rdStatus) ∧
  ∀ s : State,
    (s.seq = .idle → s.loop = .quiet →
      exec .rdStatus s = .next { s with answer := .rdata s.statusWord }) ∧
    (s.statusWord.getLsbD 0 = true ↔ s.baudRate ≠ 0#32) ∧
    (s.statusWord.getLsbD 1 = true ↔ s.count ≠ 0#16) ∧
    (s.statusWord.getLsbD 2 = true ↔ s.count.toNat = s.cfg.n) ∧
    (s.statusWord.getLsbD 3 = true ↔ s.txHold ≠ none) ∧
    (s.statusWord.getLsbD 4 = true ↔ s.rxHold ≠ none) ∧
    (s.statusWord.getLsbD 5 = true ↔ s.rxHold ≠ none ∧ s.imsc.getLsbD 4 = true) ∧
    (s.statusWord.getLsbD 8 = s.txCorrupt) ∧ (s.statusWord.getLsbD 9 = s.lineOverrun) ∧
    (∀ k, k = 6 ∨ k = 7 ∨ 10 ≤ k → s.statusWord.getLsbD k = false)

/-! ## The receive line and the dispatcher (60_exceptions) -/

/-- 60_exceptions R238: RX_DELIVER fills an empty holding register, sets the sticky flag on an occupied
one, and loses the byte when the receiver is disabled. -/
def Obligations.DeliverCases : Prop :=
  ∀ (s : State) (b : Byte),
    (s.cr.getLsbD 0 = true → s.cr.getLsbD 9 = true → s.rxHold = none →
      exec (.rxDeliver b) s = .next { s with rxHold := some b, rxSeq := s.rxSeq ++ [b] }) ∧
    (∀ old, s.cr.getLsbD 0 = true → s.cr.getLsbD 9 = true → s.rxHold = some old →
      exec (.rxDeliver b) s = .next { s with lineOverrun := true }) ∧
    (s.cr.getLsbD 0 = false ∨ s.cr.getLsbD 9 = false → exec (.rxDeliver b) s = .next s)

/-- 60_exceptions R239: DISPATCH is enabled exactly when the request is up, the line enabled and the
callback bound, whatever the lifecycle state and the foreground's position. -/
def Obligations.DispatchEnabledExactly : Prop :=
  ∀ s : State, (∃ t, exec .dispatch s = .next t) ↔
    s.rxHold ≠ none ∧ s.imsc.getLsbD 4 = true ∧ s.vicEnabled = true ∧
      s.vicHandler = some s.cfg.rxcb

/-- The model's choice, log 3: where an agent's step is not enabled (60_exceptions R239, 44_transmit R196)
its operation is refused by name, and its turn passes without effect. -/
def Obligations.DisabledAgentsHaveNoStep : Prop :=
  ∀ s : State,
    ((¬ ∃ t, exec .dispatch s = .next t) →
      exec .dispatch s = .refused (.notEnabled .disp) ∧ stepDISP s = .next s) ∧
    ((¬ ∃ t, exec .txEmit s = .next t) →
      exec .txEmit s = .refused (.notEnabled .lineTx) ∧ stepLineTx s = .next s)

/-- 60_exceptions R240 (histories: log 12): DISPATCH moves the waiting byte into the ring buffer, or drops it when the buffer
is full; the request falls; the foreground's position, `last_result`, the lifecycle state, the line-side
registers and the transmit side are untouched. -/
def Obligations.DispatchMovesByte : Prop :=
  ∀ (s : State) (b : Byte), s.cfg.wf → s.rxHold = some b → s.imsc.getLsbD 4 = true →
    s.vicEnabled = true → s.vicHandler = some s.cfg.rxcb →
    ∃ t, exec .dispatch s = .next t ∧ t.rxHold = none ∧ t.irqReq = false ∧ t.head = s.head ∧
      (s.count.toNat < s.cfg.n →
        t.count.toNat = s.count.toNat + 1 ∧ t.overrunCount = s.overrunCount ∧
        t.buf.read ((s.head.toNat + s.count.toNat) % s.cfg.n) = some b ∧
        ∀ a, a ≠ (s.head.toNat + s.count.toNat) % s.cfg.n → t.buf.read a = s.buf.read a) ∧
      (s.count.toNat = s.cfg.n →
        t.hc = s.hc ∧ t.overrunCount.toNat = min (s.overrunCount.toNat + 1) 0xFFFFFFFF ∧
        ∀ a, t.buf.read a = s.buf.read a) ∧
      t = { s with hc := t.hc, buf := t.buf, rxHold := none, overrunCount := t.overrunCount,
                   offered := s.offered ++ [b], accepted := t.accepted }

/-- 60_exceptions R255: every step keeps the bytes offered to RECEIVE in the order the line delivered
them, each once. -/
def Obligations.StepKeepsReceiveOrder : Prop :=
  ∀ s t : State, RxOrdered s → step s = .next t → RxOrdered t

/-- 60_exceptions R258: no step but the foreground's own (and RESET) changes `head` or lowers `count`. -/
def Obligations.OnlyForegroundConsumes : Prop :=
  ∀ s t : State, Sound s → step s = .next t → s.nextTurn.1 ≠ .fg → s.nextTurn.1 ≠ .reset →
    t.head = s.head ∧ s.count.toNat ≤ t.count.toNat ∧ t.count.toNat ≤ s.count.toNat + 1 ∧
      t.seq = s.seq ∧ t.loop = s.loop ∧ t.lastResult = s.lastResult

/-- 60_exceptions R256, 45_binding R202: with the line disabled no step puts a byte into the ring buffer,
and a waiting byte stays where it is until RESET. -/
def Obligations.DisabledLineReceivesNothing : Prop :=
  ∀ s t : State, s.vicEnabled = false → step s = .next t →
    t.count.toNat ≤ s.count.toNat ∧ (∀ a, s.nextTurn.1 ≠ .reset → t.buf.read a = s.buf.read a) ∧
      (s.nextTurn.1 ≠ .reset → ∀ b, s.rxHold = some b → t.rxHold = some b)

/-! ## The register primitives (40_register_primitives) -/

/-- 40_register_primitives R121: REG_READ answers the register's value; of DR the waiting byte, emptying
the holding register (with nothing waiting some byte, log 9); of RXPOP what READ answers, taking the byte
out; of the four registers without storage it is refused. -/
def Obligations.RegReadCases : Prop :=
  ∀ s : State,
    exec (.regRead .ibrd) s = .next { s with answer := .rdata (0#16 ++ s.ibrd) } ∧
    exec (.regRead .fbrd) s = .next { s with answer := .rdata (0#26 ++ s.fbrd) } ∧
    exec (.regRead .lcrh) s = .next { s with answer := .rdata (0#24 ++ s.lcrh) } ∧
    exec (.regRead .cr) s = .next { s with answer := .rdata (0#16 ++ s.cr) } ∧
    exec (.regRead .imsc) s = .next { s with answer := .rdata (0#21 ++ s.imsc) } ∧
    exec (.regRead .baud) s = .next { s with answer := .rdata s.baudRate } ∧
    exec (.regRead .status) s = .next { s with answer := .rdata s.statusWord } ∧
    exec (.regRead .fill) s = .next { s with answer := .rdata (0#16 ++ s.count) } ∧
    exec (.regRead .ptrs) s = .next { s with answer := .rdata s.hc } ∧
    exec (.regRead .overrun) s = .next { s with answer := .rdata s.overrunCount } ∧
    exec (.regRead .result) s = .next { s with answer := .rdata s.lastResult } ∧
    (∀ b, s.rxHold = some b →
      exec (.regRead .dr) s = .next { s with rxHold := none, answer := .rdata (0#24 ++ b) }) ∧
    (s.rxHold = none → ∃ b : Byte,
      exec (.regRead .dr) s = .next { s with draws := s.draws + 1, answer := .rdata (0#24 ++ b) }) ∧
    (s.count = 0#16 → exec (.regRead .rxpop) s = .next { s with answer := .rdata 0#32 }) ∧
    (s.cfg.wf → s.count ≠ 0#16 → s.head.toNat < s.cfg.n →
      ∃ t b, exec (.regRead .rxpop) s = .next t ∧ (∀ x, s.buf.read s.head.toNat = some x → b = x) ∧
        t.answer = .rdata (0x100#32 ||| b.setWidth 32) ∧
        t.head.toNat = (s.head.toNat + 1) % s.cfg.n ∧ t.count.toNat + 1 = s.count.toNat ∧
        t = { s with hc := t.hc, answer := t.answer, returned := s.returned ++ [b],
                     draws := t.draws }) ∧
    (∀ r, r = .close ∨ r = .flush ∨ r = .rxhadd ∨ r = .rxhclr →
      exec (.regRead r) s = .refused (.noMeaningOn .read r))

/-- 40_register_primitives R122: SET_BITS ORs the mask in, truncated to the register's width. -/
def Obligations.SetBitsOrsMask : Prop :=
  ∀ (s : State) (mask : Word),
    exec (.setBits .ibrd mask) s = .next { s with ibrd := s.ibrd ||| mask.setWidth 16 } ∧
    exec (.setBits .fbrd mask) s = .next { s with fbrd := s.fbrd ||| mask.setWidth 6 } ∧
    exec (.setBits .lcrh mask) s = .next { s with lcrh := s.lcrh ||| mask.setWidth 8 } ∧
    exec (.setBits .cr mask) s = .next { s with cr := s.cr ||| mask.setWidth 16 } ∧
    exec (.setBits .imsc mask) s = .next { s with imsc := s.imsc ||| mask.setWidth 11 } ∧
    (∀ r, r.stored = false → exec (.setBits r mask) s = .refused (.noMeaningOn .setBits r))

/-- 40_register_primitives R123: WRITE_HARD stores the value truncated to the register's width, or starts
the register's operation (its entry guard and IMSC: the model's reading, log 16); on a register with
neither storage nor operation it changes nothing (the model's reading, log 15). -/
def Obligations.WriteHardCases : Prop :=
  ∀ (s : State) (v : Word),
    exec (.writeHard .ibrd v) s = .next { s with ibrd := v.setWidth 16 } ∧
    exec (.writeHard .fbrd v) s = .next { s with fbrd := v.setWidth 6 } ∧
    exec (.writeHard .lcrh v) s = .next { s with lcrh := v.setWidth 8 } ∧
    exec (.writeHard .cr v) s = .next { s with cr := v.setWidth 16 } ∧
    exec (.writeHard .imsc v) s = .next { s with imsc := v.setWidth 11 } ∧
    exec (.writeHard .dr v) s = exec (.write (v.extractLsb' 0 8)) s ∧
    exec (.writeHard .baud v) s = exec (.openDev v) s ∧
    exec (.writeHard .close v) s = exec .closeDev s ∧
    exec (.writeHard .flush v) s = exec .flush s ∧
    exec (.writeHard .rxhadd v) s = exec (.addReceiveHandler v) s ∧
    exec (.writeHard .rxhclr v) s = exec .clearReceiveHandlers s ∧
    (∀ r, r = .status ∨ r = .fill ∨ r = .rxpop ∨ r = .ptrs ∨ r = .overrun ∨ r = .result →
      exec (.writeHard r v) s = .next s)

/-! ## Reset (70_reset, 10_state) -/

/-- 10_state R48: the state after reset, of every instance; STATUS reads 0. -/
def Obligations.ResetValues : Prop :=
  ∀ (c : Config) (s : State), s = State.resetWith c →
    s.cfg = c ∧ s.baudRate = 0#32 ∧ s.head = 0#16 ∧
    s.count = 0#16 ∧ s.hc = 0#32 ∧ s.lastResult = 0#32 ∧ s.overrunCount = 0#32 ∧ s.seq = .idle ∧
    s.ibrd = 0#16 ∧ s.fbrd = 0#6 ∧ s.lcrh = 0#8 ∧ s.cr = 0#16 ∧ s.imsc = 0#11 ∧ s.rxHold = none ∧
    s.txHold = none ∧ s.txCorrupt = false ∧ s.lineOverrun = false ∧ s.irqReq = false ∧
    s.vicEnabled = false ∧ s.vicHandler = none ∧ s.txLog = [] ∧ s.rxSeq = [] ∧
    (c.wf → s.statusWord = 0#32)

/-- 70_reset R270, R272: the event RESET, at any time, in the middle of an operation too, puts the block
into its reset state; only the inputs still to come and the draw counter stay. -/
def Obligations.ResetEventAbandonsOperation : Prop :=
  ∀ (s : State) (rest : List Turn), s.sched = .reset :: rest →
    step s = .next { State.resetWith s.cfg with host := s.host, sched := rest, draws := s.draws }

/-- 70_reset R273, 10_state R27: every instance in range starts in a sound state, its histories in order. -/
def Obligations.ResetIsSound : Prop :=
  ∀ c : Config, c.wf → Sound (State.resetWith c) ∧ TxFaithful (State.resetWith c) ∧
    RxOrdered (State.resetWith c) ∧ Fifo (State.resetWith c) ∧ Programmed (State.resetWith c)

/-! ## The whole machine -/

/-- 10_state R27, R33, R36 to R38, 41_lifecycle R141 (K1), 60_exceptions R256: every step keeps the
structural invariant, whoever takes it. (Its clause that a CLOSE in progress has the line disabled rests on
log 23: no other software enables the line in between.) -/
def Obligations.StepKeepsSound : Prop :=
  ∀ s t : State, Sound s → step s = .next t → Sound t

/-- 43_ring_buffer R180, 20_memory R74: every step keeps the ring buffer's order. -/
def Obligations.StepKeepsFifo : Prop :=
  ∀ s t : State, Sound s → Fifo s → step s = .next t → Fifo t

/-- 20_memory R73, 41_lifecycle R137, R140: every step keeps that an OPEN in progress has programmed at
least what its position says, the divisors before the control register, and that an Open device is
configured, and outside OPEN for its rate. (That an OPEN in progress past O8 has the line enabled, and past
O9 its own handler bound, rests on log 23: no other software calls the binding in between. Of an Open
device it says that some handler is bound, since other software may rebind it.) -/
def Obligations.StepKeepsProgrammed : Prop :=
  ∀ s t : State, Sound s → Programmed s → step s = .next t → Programmed t

/-- 60_exceptions R230, R235: a program inside the admitted subset is never stopped, whatever the
schedule, and what is left of it stays inside. (That the turn of an agent that is not enabled passes is
log 3; that a foreground with nothing to issue stays where it is is log 4.) -/
def Obligations.AdmittedProgramNeverStops : Prop :=
  ∀ s : State, Sound s → s.programAdmitted = true →
    ∃ t, step s = .next t ∧ t.programAdmitted = true

/-- 10_state R28, 30_encoding R97: outside the micro-steps of OPEN and the event RESET no step changes a
line-side control register. -/
def Obligations.LineRegistersHaveOneOwner : Prop :=
  ∀ s t : State, step s = .next t → s.nextTurn.1 ≠ .reset →
    ((∀ k r i f, s.seq ≠ .opening k r i f) ∨ s.nextTurn.1 ≠ .fg) →
    t.ibrd = s.ibrd ∧ t.fbrd = s.fbrd ∧ t.lcrh = s.lcrh ∧ t.cr = s.cr ∧ t.imsc = s.imsc

/-- 10_state R31, R42, R51, 70_reset R271: no step but RESET clears a sticky flag or lowers the overrun
counter, and no step but RESET unbinds the handler; the parameters never change. -/
def Obligations.OnlyResetClears : Prop :=
  ∀ s t : State, step s = .next t →
    t.cfg = s.cfg ∧
    (s.nextTurn.1 ≠ .reset →
      (s.txCorrupt = true → t.txCorrupt = true) ∧ (s.lineOverrun = true → t.lineOverrun = true) ∧
      s.overrunCount.toNat ≤ t.overrunCount.toNat ∧ t.overrunCount.toNat ≤ s.overrunCount.toNat + 1 ∧
      (s.vicHandler.isSome = true → t.vicHandler.isSome = true))

/-- 10_state R20, 41_lifecycle R139 (g): a host operation put to `exec` while another is in progress is
refused by name. -/
def Obligations.BusyForegroundRefusesOperations : Prop :=
  ∀ (s : State) (i : Instr), s.fgFree = false →
    ((∃ t, encode i = some t) ∨ i = .isOpen ∨ (∃ out max, i = .readInto out max) ∨
      (∃ bytes, i = .writeBuf bytes)) →
    exec i s = .refused .foregroundBusy
end

