-- ==== Sys2Proof/Laws/Bits.lean ====
section
/-! SUPPORT. The two parts of a concatenation, at any widths. -/

namespace Sys2Proof.Laws

theorem extractLsb'_append_high {a b : Nat} (x : BitVec a) (y : BitVec b) :
    (x ++ y).extractLsb' b a = x := by
  ext i hi
  simp [BitVec.getLsbD_append, BitVec.getLsbD_eq_getElem hi]

theorem extractLsb'_append_low {a b : Nat} (x : BitVec a) (y : BitVec b) :
    (x ++ y).extractLsb' 0 b = y := by
  ext i hi
  simp [BitVec.getLsbD_append, hi]

theorem append_extractLsb' {a b : Nat} (w : BitVec (a + b)) :
    w.extractLsb' b a ++ w.extractLsb' 0 b = w := by
  ext i hi
  simp only [BitVec.getElem_append, BitVec.getElem_extractLsb']
  split
  · simp [BitVec.getLsbD_eq_getElem hi]
  · have : b + (i - b) = i := by omega
    simp [this, BitVec.getLsbD_eq_getElem hi]

/-- A narrow value passes unchanged through a wider word. -/
theorem setWidth_setWidth_narrow {a b : Nat} (h : a ≤ b) (x : BitVec a) :
    (x.setWidth b).setWidth a = x := by
  ext i hi
  simp [BitVec.getLsbD_eq_getElem hi]
  omega

/-- OR, truncated, is the OR of the truncated operands. -/
theorem setWidth_or_setWidth {a b : Nat} (h : a ≤ b) (x : BitVec a) (m : BitVec b) :
    (x.setWidth b ||| m).setWidth a = x ||| m.setWidth a := by
  ext i hi
  have : i < b := by omega
  simp [this, BitVec.getLsbD_eq_getElem hi]

/-- Zero extension is a zero field above the value. -/
theorem setWidth_eq_zero_append {a b : Nat} (x : BitVec b) : x.setWidth (a + b) = 0#a ++ x := by
  ext i hi
  simp only [BitVec.getElem_setWidth, BitVec.getElem_append]
  split
  · simp [BitVec.getLsbD_eq_getElem, *]
  · simp [BitVec.getLsbD_of_ge x i (by omega)]

end Sys2Proof.Laws
end

