-- ==== Sys2Proof/Laws/Decode.lean ====
section
/-! SUPPORT. What the decoder accepts, and the fields of a word built from its parts. -/

namespace Sys2Proof

/-- The register map has one register at each of its offsets. -/
theorem regAt_offset (r : Reg) : regAt r.offset = some r := by cases r <;> decide

theorem offset_of_regAt {off : BitVec 12} {r : Reg} (h : regAt off = some r) : off = r.offset := by
  unfold regAt at h
  have := List.find?_some h
  exact (of_decide_eq_true this).symm

theorem kindOf_code (k : Kind) : kindOf k.code = some k := by cases k <;> rfl

theorem code_of_kindOf {c : BitVec 2} {k : Kind} (h : kindOf c = some k) : c = k.code := by
  unfold kindOf at h
  split at h <;> cases h <;> rfl

/-- Every register stands at a word-aligned offset. -/
theorem offset_aligned (r : Reg) : r.offset.extractLsb' 0 2 = 0#2 := by cases r <;> decide

/-- Decoding gives an operation exactly when RSV is 0 and KIND and OFF name an admitted pair. -/
theorem decode_ok_iff {t : TxnWord} {i : Instr} : decode t = .ok i ↔
    rsvField t = 0#2 ∧ ∃ k r, kindField t = Kind.code k ∧ offField t = Reg.offset r ∧
      admitted k r (dataField t) = some i := by
  constructor
  · intro h
    unfold decode at h
    split at h
    · cases h
    · rename_i hr
      split at h
      · cases h
      · rename_i k hk
        split at h
        · cases h
        · split at h
          · cases h
          · rename_i r ho
            split at h
            · cases h
            · rename_i j hj
              cases h
              exact ⟨by simpa using hr, k, r, code_of_kindOf hk, offset_of_regAt ho, hj⟩
  · rintro ⟨hr, k, r, hk, ho, ha⟩
    unfold decode
    simp [hr, hk, ho, ha, kindOf_code, offset_aligned, regAt_offset]

/-- An admitted pair is a BUS operation with its own pattern. -/
theorem admitted_pattern {k : Kind} {r : Reg} {d : Word} {i : Instr} (h : admitted k r d = some i) :
    i.pattern = some (k.code ++ 0#2 ++ r.offset) := by
  cases k <;> cases r <;> simp [admitted] at h <;> subst h <;> rfl

theorem decode_isBus {t : TxnWord} {i : Instr} (h : decode t = .ok i) : i.isBus = true := by
  obtain ⟨-, k, r, -, -, ha⟩ := decode_ok_iff.1 h
  simp [Instr.isBus, admitted_pattern ha]

/-- The fields of T[47:32] built from a primitive and a register. -/
theorem packed_high_fields (k : Kind) (r : Reg) :
    (k.code ++ 0#2 ++ r.offset : BitVec 16).extractLsb' 12 2 = 0#2 ∧
      (k.code ++ 0#2 ++ r.offset : BitVec 16).extractLsb' 14 2 = k.code ∧
      (k.code ++ 0#2 ++ r.offset : BitVec 16).extractLsb' 0 12 = r.offset := by
  cases k <;> cases r <;> decide

/-- A field of T[47:32], cut out of the whole word. -/
theorem extractLsb'_high (t : TxnWord) {a b : Nat} (h : a + b ≤ 16) :
    t.extractLsb' (32 + a) b = (t.extractLsb' 32 16).extractLsb' a b := by
  ext i hi
  simp [show a + i < 16 by omega, Nat.add_assoc]

/-- The fields of a packed word are the parts it was packed from. -/
theorem packTxn_fields (k : Kind) (r : Reg) (d : Word) :
    rsvField (packTxn k.code r.offset d) = 0#2 ∧ kindField (packTxn k.code r.offset d) = k.code ∧
      offField (packTxn k.code r.offset d) = r.offset ∧ dataField (packTxn k.code r.offset d) = d := by
  have hh : (packTxn k.code r.offset d).extractLsb' 32 16 = k.code ++ 0#2 ++ r.offset :=
    Laws.extractLsb'_append_high _ d
  obtain ⟨c1, c2, c3⟩ := packed_high_fields k r
  refine ⟨?_, ?_, ?_, Laws.extractLsb'_append_low _ d⟩
  · exact (extractLsb'_high _ (a := 12) (b := 2) (by omega)).trans (by rw [hh, c1])
  · exact (extractLsb'_high _ (a := 14) (b := 2) (by omega)).trans (by rw [hh, c2])
  · exact (extractLsb'_high _ (a := 0) (b := 12) (by omega)).trans (by rw [hh, c3])

/-- Decoding a packed word is a look-up in the admitted table. -/
theorem decode_packTxn (k : Kind) (r : Reg) (d : Word) :
    decode (packTxn k.code r.offset d) =
      match admitted k r d with
      | none => .error (.notAdmitted k r)
      | some i => .ok i := by
  obtain ⟨h1, h2, h3, h4⟩ := packTxn_fields k r d
  cases h : admitted k r d <;>
    simp [decode, h, h1, h2, h3, h4, kindOf_code, offset_aligned, regAt_offset]

end Sys2Proof
end

