-- ==== Sys2Proof/Laws/Memory.lean ====
section
/-! SUPPORT. The ring buffer's storage: read after write, every other slot left alone, the canonical form
kept. -/

namespace Sys2Proof.Machine

theorem Memory.read_write_same (m : Memory) (a : Nat) (v : Byte) : (m.write a v).read a = some v := by
  induction m with
  | nil => simp [Memory.write, Memory.read]
  | cons c m ih =>
    obtain ⟨k, b⟩ := c
    simp only [Memory.write]
    split
    · simp [Memory.read]
    · split
      · simp [Memory.read]
      · have : k ≠ a := by omega
        simp [Memory.read, this, ih]

theorem Memory.read_write_other (m : Memory) {a x : Nat} (v : Byte) (h : x ≠ a) :
    (m.write a v).read x = m.read x := by
  have h' : a ≠ x := Ne.symm h
  induction m with
  | nil => simp [Memory.write, Memory.read, h']
  | cons c m ih =>
    obtain ⟨k, b⟩ := c
    simp only [Memory.write]
    split
    · simp [Memory.read, h']
    · split
      · subst_vars; simp [Memory.read, h']
      · simp [Memory.read, ih]

theorem Memory.wf_tail {c : Host.Cell} {m : Memory} (h : Memory.wf (c :: m) = true) : m.wf = true := by
  cases m with
  | nil => rfl
  | cons d m => simp [Memory.wf] at h; exact h.2

theorem Memory.wf_cons {c : Host.Cell} {m : Memory} (h : m.wf = true) (hc : ∀ d ∈ m.head?, c.1 < d.1) :
    Memory.wf (c :: m) = true := by
  cases m with
  | nil => rfl
  | cons d m => simp [Memory.wf]; exact ⟨hc d (by simp), h⟩

theorem Memory.head_write (m : Memory) (a : Nat) (v : Byte) {k : Nat} (hk : k < a)
    (hm : ∀ d ∈ m.head?, k < d.1) : ∀ d ∈ (m.write a v).head?, k < d.1 := by
  cases m with
  | nil => simpa [Memory.write] using hk
  | cons c m =>
    obtain ⟨j, b⟩ := c
    simp only [List.head?_cons, Option.mem_def, Option.some.injEq, forall_eq'] at hm
    simp only [Memory.write]
    split
    · simpa using hk
    · split
      · simpa using hk
      · simpa using hm

/-- A write keeps the canonical form. -/
theorem Memory.wf_write (m : Memory) (a : Nat) (v : Byte) (h : m.wf = true) :
    (m.write a v).wf = true := by
  induction m with
  | nil => rfl
  | cons c m ih =>
    obtain ⟨k, b⟩ := c
    have hh : ∀ d ∈ m.head?, k < d.1 := by
      cases m with
      | nil => simp
      | cons d m => simp [Memory.wf] at h; simpa using h.1
    simp only [Memory.write]
    split
    · exact Memory.wf_cons h (by simpa)
    · split
      · rename_i hak; subst hak; exact Memory.wf_cons (Memory.wf_tail h) hh
      · exact Memory.wf_cons (ih (Memory.wf_tail h)) (Memory.head_write m a v (by omega) hh)

/-- A write adds no slot but its own. -/
theorem Memory.mem_write {m : Memory} {a : Nat} {v : Byte} {c : Host.Cell} (h : c ∈ m.write a v) :
    c.1 = a ∨ c ∈ m := by
  induction m with
  | nil => simp [Memory.write] at h; simp [h]
  | cons d m ih =>
    obtain ⟨k, b⟩ := d
    simp only [Memory.write] at h
    split at h
    · simp at h; rcases h with rfl | h | h <;> simp_all
    · split at h
      · simp at h; rcases h with rfl | h <;> simp_all
      · simp at h; rcases h with rfl | h
        · simp
        · rcases ih h with h | h <;> simp_all

end Sys2Proof.Machine
end

