-- ==== Sys2Proof/Laws/State.lean ====
section
/-! SUPPORT. What each named update of State leaves in each field, and the two halves of the pointer word. -/

namespace Sys2Proof.Machine

@[simp] theorem State.setPtrs_cfg (s : State) (h c : BitVec 16) : (s.setPtrs h c).cfg = s.cfg := rfl
@[simp] theorem State.setPtrs_baudRate (s : State) (h c : BitVec 16) : (s.setPtrs h c).baudRate = s.baudRate := rfl
@[simp] theorem State.setPtrs_hc (s : State) (h c : BitVec 16) : (s.setPtrs h c).hc = packHc h c := rfl
@[simp] theorem State.setPtrs_buf (s : State) (h c : BitVec 16) : (s.setPtrs h c).buf = s.buf := rfl
@[simp] theorem State.setPtrs_lastResult (s : State) (h c : BitVec 16) : (s.setPtrs h c).lastResult = s.lastResult := rfl
@[simp] theorem State.setPtrs_overrunCount (s : State) (h c : BitVec 16) : (s.setPtrs h c).overrunCount = s.overrunCount := rfl
@[simp] theorem State.setPtrs_seq (s : State) (h c : BitVec 16) : (s.setPtrs h c).seq = s.seq := rfl
@[simp] theorem State.setPtrs_ibrd (s : State) (h c : BitVec 16) : (s.setPtrs h c).ibrd = s.ibrd := rfl
@[simp] theorem State.setPtrs_fbrd (s : State) (h c : BitVec 16) : (s.setPtrs h c).fbrd = s.fbrd := rfl
@[simp] theorem State.setPtrs_lcrh (s : State) (h c : BitVec 16) : (s.setPtrs h c).lcrh = s.lcrh := rfl
@[simp] theorem State.setPtrs_cr (s : State) (h c : BitVec 16) : (s.setPtrs h c).cr = s.cr := rfl
@[simp] theorem State.setPtrs_imsc (s : State) (h c : BitVec 16) : (s.setPtrs h c).imsc = s.imsc := rfl
@[simp] theorem State.setPtrs_rxHold (s : State) (h c : BitVec 16) : (s.setPtrs h c).rxHold = s.rxHold := rfl
@[simp] theorem State.setPtrs_txHold (s : State) (h c : BitVec 16) : (s.setPtrs h c).txHold = s.txHold := rfl
@[simp] theorem State.setPtrs_txCorrupt (s : State) (h c : BitVec 16) : (s.setPtrs h c).txCorrupt = s.txCorrupt := rfl
@[simp] theorem State.setPtrs_lineOverrun (s : State) (h c : BitVec 16) : (s.setPtrs h c).lineOverrun = s.lineOverrun := rfl
@[simp] theorem State.setPtrs_vicEnabled (s : State) (h c : BitVec 16) : (s.setPtrs h c).vicEnabled = s.vicEnabled := rfl
@[simp] theorem State.setPtrs_vicHandler (s : State) (h c : BitVec 16) : (s.setPtrs h c).vicHandler = s.vicHandler := rfl
@[simp] theorem State.setPtrs_txLog (s : State) (h c : BitVec 16) : (s.setPtrs h c).txLog = s.txLog := rfl
@[simp] theorem State.setPtrs_rxSeq (s : State) (h c : BitVec 16) : (s.setPtrs h c).rxSeq = s.rxSeq := rfl
@[simp] theorem State.setPtrs_txSeq (s : State) (h c : BitVec 16) : (s.setPtrs h c).txSeq = s.txSeq := rfl
@[simp] theorem State.setPtrs_offered (s : State) (h c : BitVec 16) : (s.setPtrs h c).offered = s.offered := rfl
@[simp] theorem State.setPtrs_accepted (s : State) (h c : BitVec 16) : (s.setPtrs h c).accepted = s.accepted := rfl
@[simp] theorem State.setPtrs_returned (s : State) (h c : BitVec 16) : (s.setPtrs h c).returned = s.returned := rfl
@[simp] theorem State.setPtrs_draws (s : State) (h c : BitVec 16) : (s.setPtrs h c).draws = s.draws := rfl
@[simp] theorem State.setPtrs_answer (s : State) (h c : BitVec 16) : (s.setPtrs h c).answer = s.answer := rfl
@[simp] theorem State.setPtrs_loop (s : State) (h c : BitVec 16) : (s.setPtrs h c).loop = s.loop := rfl
@[simp] theorem State.setPtrs_host (s : State) (h c : BitVec 16) : (s.setPtrs h c).host = s.host := rfl
@[simp] theorem State.setPtrs_sched (s : State) (h c : BitVec 16) : (s.setPtrs h c).sched = s.sched := rfl

@[simp] theorem State.emptyRing_cfg (s : State) : s.emptyRing.cfg = s.cfg := rfl
@[simp] theorem State.emptyRing_baudRate (s : State) : s.emptyRing.baudRate = s.baudRate := rfl
@[simp] theorem State.emptyRing_hc (s : State) : s.emptyRing.hc = 0#32 := rfl
@[simp] theorem State.emptyRing_buf (s : State) : s.emptyRing.buf = s.buf := rfl
@[simp] theorem State.emptyRing_lastResult (s : State) : s.emptyRing.lastResult = s.lastResult := rfl
@[simp] theorem State.emptyRing_overrunCount (s : State) : s.emptyRing.overrunCount = s.overrunCount := rfl
@[simp] theorem State.emptyRing_seq (s : State) : s.emptyRing.seq = s.seq := rfl
@[simp] theorem State.emptyRing_ibrd (s : State) : s.emptyRing.ibrd = s.ibrd := rfl
@[simp] theorem State.emptyRing_fbrd (s : State) : s.emptyRing.fbrd = s.fbrd := rfl
@[simp] theorem State.emptyRing_lcrh (s : State) : s.emptyRing.lcrh = s.lcrh := rfl
@[simp] theorem State.emptyRing_cr (s : State) : s.emptyRing.cr = s.cr := rfl
@[simp] theorem State.emptyRing_imsc (s : State) : s.emptyRing.imsc = s.imsc := rfl
@[simp] theorem State.emptyRing_rxHold (s : State) : s.emptyRing.rxHold = s.rxHold := rfl
@[simp] theorem State.emptyRing_txHold (s : State) : s.emptyRing.txHold = s.txHold := rfl
@[simp] theorem State.emptyRing_txCorrupt (s : State) : s.emptyRing.txCorrupt = s.txCorrupt := rfl
@[simp] theorem State.emptyRing_lineOverrun (s : State) : s.emptyRing.lineOverrun = s.lineOverrun := rfl
@[simp] theorem State.emptyRing_vicEnabled (s : State) : s.emptyRing.vicEnabled = s.vicEnabled := rfl
@[simp] theorem State.emptyRing_vicHandler (s : State) : s.emptyRing.vicHandler = s.vicHandler := rfl
@[simp] theorem State.emptyRing_txLog (s : State) : s.emptyRing.txLog = s.txLog := rfl
@[simp] theorem State.emptyRing_rxSeq (s : State) : s.emptyRing.rxSeq = s.rxSeq := rfl
@[simp] theorem State.emptyRing_txSeq (s : State) : s.emptyRing.txSeq = s.txSeq := rfl
@[simp] theorem State.emptyRing_offered (s : State) : s.emptyRing.offered = s.offered := rfl
@[simp] theorem State.emptyRing_accepted (s : State) : s.emptyRing.accepted = [] := rfl
@[simp] theorem State.emptyRing_returned (s : State) : s.emptyRing.returned = [] := rfl
@[simp] theorem State.emptyRing_draws (s : State) : s.emptyRing.draws = s.draws := rfl
@[simp] theorem State.emptyRing_answer (s : State) : s.emptyRing.answer = s.answer := rfl
@[simp] theorem State.emptyRing_loop (s : State) : s.emptyRing.loop = s.loop := rfl
@[simp] theorem State.emptyRing_host (s : State) : s.emptyRing.host = s.host := rfl
@[simp] theorem State.emptyRing_sched (s : State) : s.emptyRing.sched = s.sched := rfl

@[simp] theorem State.latch_cfg (s : State) (v : Word) : (s.latch v).cfg = s.cfg := rfl
@[simp] theorem State.latch_baudRate (s : State) (v : Word) : (s.latch v).baudRate = s.baudRate := rfl
@[simp] theorem State.latch_hc (s : State) (v : Word) : (s.latch v).hc = s.hc := rfl
@[simp] theorem State.latch_buf (s : State) (v : Word) : (s.latch v).buf = s.buf := rfl
@[simp] theorem State.latch_lastResult (s : State) (v : Word) : (s.latch v).lastResult = v := rfl
@[simp] theorem State.latch_overrunCount (s : State) (v : Word) : (s.latch v).overrunCount = s.overrunCount := rfl
@[simp] theorem State.latch_seq (s : State) (v : Word) : (s.latch v).seq = s.seq := rfl
@[simp] theorem State.latch_ibrd (s : State) (v : Word) : (s.latch v).ibrd = s.ibrd := rfl
@[simp] theorem State.latch_fbrd (s : State) (v : Word) : (s.latch v).fbrd = s.fbrd := rfl
@[simp] theorem State.latch_lcrh (s : State) (v : Word) : (s.latch v).lcrh = s.lcrh := rfl
@[simp] theorem State.latch_cr (s : State) (v : Word) : (s.latch v).cr = s.cr := rfl
@[simp] theorem State.latch_imsc (s : State) (v : Word) : (s.latch v).imsc = s.imsc := rfl
@[simp] theorem State.latch_rxHold (s : State) (v : Word) : (s.latch v).rxHold = s.rxHold := rfl
@[simp] theorem State.latch_txHold (s : State) (v : Word) : (s.latch v).txHold = s.txHold := rfl
@[simp] theorem State.latch_txCorrupt (s : State) (v : Word) : (s.latch v).txCorrupt = s.txCorrupt := rfl
@[simp] theorem State.latch_lineOverrun (s : State) (v : Word) : (s.latch v).lineOverrun = s.lineOverrun := rfl
@[simp] theorem State.latch_vicEnabled (s : State) (v : Word) : (s.latch v).vicEnabled = s.vicEnabled := rfl
@[simp] theorem State.latch_vicHandler (s : State) (v : Word) : (s.latch v).vicHandler = s.vicHandler := rfl
@[simp] theorem State.latch_txLog (s : State) (v : Word) : (s.latch v).txLog = s.txLog := rfl
@[simp] theorem State.latch_rxSeq (s : State) (v : Word) : (s.latch v).rxSeq = s.rxSeq := rfl
@[simp] theorem State.latch_txSeq (s : State) (v : Word) : (s.latch v).txSeq = s.txSeq := rfl
@[simp] theorem State.latch_offered (s : State) (v : Word) : (s.latch v).offered = s.offered := rfl
@[simp] theorem State.latch_accepted (s : State) (v : Word) : (s.latch v).accepted = s.accepted := rfl
@[simp] theorem State.latch_returned (s : State) (v : Word) : (s.latch v).returned = s.returned := rfl
@[simp] theorem State.latch_draws (s : State) (v : Word) : (s.latch v).draws = s.draws := rfl
@[simp] theorem State.latch_answer (s : State) (v : Word) : (s.latch v).answer = s.answer := rfl
@[simp] theorem State.latch_loop (s : State) (v : Word) : (s.latch v).loop = s.loop := rfl
@[simp] theorem State.latch_host (s : State) (v : Word) : (s.latch v).host = s.host := rfl
@[simp] theorem State.latch_sched (s : State) (v : Word) : (s.latch v).sched = s.sched := rfl

@[simp] theorem State.reply_cfg (s : State) (a : Answer) : (s.reply a).cfg = s.cfg := rfl
@[simp] theorem State.reply_baudRate (s : State) (a : Answer) : (s.reply a).baudRate = s.baudRate := rfl
@[simp] theorem State.reply_hc (s : State) (a : Answer) : (s.reply a).hc = s.hc := rfl
@[simp] theorem State.reply_buf (s : State) (a : Answer) : (s.reply a).buf = s.buf := rfl
@[simp] theorem State.reply_lastResult (s : State) (a : Answer) : (s.reply a).lastResult = s.lastResult := rfl
@[simp] theorem State.reply_overrunCount (s : State) (a : Answer) : (s.reply a).overrunCount = s.overrunCount := rfl
@[simp] theorem State.reply_seq (s : State) (a : Answer) : (s.reply a).seq = s.seq := rfl
@[simp] theorem State.reply_ibrd (s : State) (a : Answer) : (s.reply a).ibrd = s.ibrd := rfl
@[simp] theorem State.reply_fbrd (s : State) (a : Answer) : (s.reply a).fbrd = s.fbrd := rfl
@[simp] theorem State.reply_lcrh (s : State) (a : Answer) : (s.reply a).lcrh = s.lcrh := rfl
@[simp] theorem State.reply_cr (s : State) (a : Answer) : (s.reply a).cr = s.cr := rfl
@[simp] theorem State.reply_imsc (s : State) (a : Answer) : (s.reply a).imsc = s.imsc := rfl
@[simp] theorem State.reply_rxHold (s : State) (a : Answer) : (s.reply a).rxHold = s.rxHold := rfl
@[simp] theorem State.reply_txHold (s : State) (a : Answer) : (s.reply a).txHold = s.txHold := rfl
@[simp] theorem State.reply_txCorrupt (s : State) (a : Answer) : (s.reply a).txCorrupt = s.txCorrupt := rfl
@[simp] theorem State.reply_lineOverrun (s : State) (a : Answer) : (s.reply a).lineOverrun = s.lineOverrun := rfl
@[simp] theorem State.reply_vicEnabled (s : State) (a : Answer) : (s.reply a).vicEnabled = s.vicEnabled := rfl
@[simp] theorem State.reply_vicHandler (s : State) (a : Answer) : (s.reply a).vicHandler = s.vicHandler := rfl
@[simp] theorem State.reply_txLog (s : State) (a : Answer) : (s.reply a).txLog = s.txLog := rfl
@[simp] theorem State.reply_rxSeq (s : State) (a : Answer) : (s.reply a).rxSeq = s.rxSeq := rfl
@[simp] theorem State.reply_txSeq (s : State) (a : Answer) : (s.reply a).txSeq = s.txSeq := rfl
@[simp] theorem State.reply_offered (s : State) (a : Answer) : (s.reply a).offered = s.offered := rfl
@[simp] theorem State.reply_accepted (s : State) (a : Answer) : (s.reply a).accepted = s.accepted := rfl
@[simp] theorem State.reply_returned (s : State) (a : Answer) : (s.reply a).returned = s.returned := rfl
@[simp] theorem State.reply_draws (s : State) (a : Answer) : (s.reply a).draws = s.draws := rfl
@[simp] theorem State.reply_answer (s : State) (a : Answer) : (s.reply a).answer = a := rfl
@[simp] theorem State.reply_loop (s : State) (a : Answer) : (s.reply a).loop = s.loop := rfl
@[simp] theorem State.reply_host (s : State) (a : Answer) : (s.reply a).host = s.host := rfl
@[simp] theorem State.reply_sched (s : State) (a : Answer) : (s.reply a).sched = s.sched := rfl

theorem packHc_head (h c : BitVec 16) : (packHc h c).extractLsb' 16 16 = h :=
  Laws.extractLsb'_append_high h c

theorem packHc_count (h c : BitVec 16) : (packHc h c).extractLsb' 0 16 = c :=
  Laws.extractLsb'_append_low h c

/-- A pointer word is its two halves. -/
theorem packHc_halves (w : Word) : packHc (w.extractLsb' 16 16) (w.extractLsb' 0 16) = w :=
  Laws.append_extractLsb' (a := 16) (b := 16) w

@[simp] theorem State.setPtrs_head (s : State) (h c : BitVec 16) : (s.setPtrs h c).head = h :=
  packHc_head h c
@[simp] theorem State.setPtrs_count (s : State) (h c : BitVec 16) : (s.setPtrs h c).count = c :=
  packHc_count h c
@[simp] theorem State.emptyRing_head (s : State) : s.emptyRing.head = 0#16 := packHc_head 0#16 0#16
@[simp] theorem State.emptyRing_count (s : State) : s.emptyRing.count = 0#16 := packHc_count 0#16 0#16
@[simp] theorem State.latch_head (s : State) (v : Word) : (s.latch v).head = s.head := rfl
@[simp] theorem State.latch_count (s : State) (v : Word) : (s.latch v).count = s.count := rfl
@[simp] theorem State.reply_head (s : State) (a : Answer) : (s.reply a).head = s.head := rfl
@[simp] theorem State.reply_count (s : State) (a : Answer) : (s.reply a).count = s.count := rfl

/-- The foreground is free exactly when it is inside nothing. -/
theorem State.fgFree_iff (s : State) : s.fgFree = true ↔ s.seq = .idle ∧ s.loop = .quiet := by
  simp [State.fgFree]

theorem whenFree_of_free {s : State} (hq : s.seq = .idle) (hl : s.loop = .quiet) (r : Result) :
    whenFree s r = r := by
  simp [whenFree, s.fgFree_iff.2 ⟨hq, hl⟩]

theorem whenFree_next {s t : State} {r : Result} (h : whenFree s r = .next t) :
    s.seq = .idle ∧ s.loop = .quiet ∧ r = .next t := by
  unfold whenFree at h
  split at h
  · rename_i hf
    exact ⟨(s.fgFree_iff.1 hf).1, (s.fgFree_iff.1 hf).2, h⟩
  · cases h

end Sys2Proof.Machine
end

