-- ==== Sys2Proof/Laws/Ops.lean ====
section
/-! SUPPORT. One lemma per shared operation that says everything it can do. -/

namespace Sys2Proof.Machine

theorem satIncr_toNat (w : Word) : (satIncr w).toNat = min (w.toNat + 1) 0xFFFFFFFF := by
  unfold satIncr
  split
  · subst_vars; rfl
  · rename_i h
    have hw : w.toNat ≠ 0xFFFFFFFF := fun e => h (BitVec.eq_of_toNat_eq e)
    have := w.isLt
    rw [BitVec.toNat_add]
    simp
    omega

theorem State.count_succ {s : State} (h : s.count.toNat < s.cfg.n) (hn : s.cfg.n ≤ 65535) :
    (s.count + 1#16).toNat = s.count.toNat + 1 := by
  rw [BitVec.toNat_add]; simp; omega

theorem State.count_pred {s : State} (h : s.count ≠ 0#16) :
    (s.count - 1#16).toNat + 1 = s.count.toNat := by
  have : s.count.toNat ≠ 0 := fun e => h (BitVec.eq_of_toNat_eq e)
  have := s.count.isLt
  rw [BitVec.toNat_sub]; simp; omega

theorem State.nextHead_toNat (s : State) (h1 : 1 ≤ s.cfg.n) (hn : s.cfg.n ≤ 65535) :
    s.nextHead.toNat = (s.head.toNat + 1) % s.cfg.n := by
  have := Nat.mod_lt (s.head.toNat + 1) h1
  simp [State.nextHead]; omega

/-- RECEIVE with the buffer full. -/
theorem State.enqueue_full {s : State} (h : s.count.toNat = s.cfg.n) (b : Byte) :
    s.enqueue b = (false, { s with overrunCount := satIncr s.overrunCount,
                                   offered := s.offered ++ [b] }) := by
  simp [State.enqueue, State.flagRxfull, h, State.raise]

/-- RECEIVE with room. -/
theorem State.enqueue_room {s : State} (h : s.count.toNat ≠ s.cfg.n) (b : Byte) :
    s.enqueue b = (true, { s with
      hc := packHc s.head (s.count + 1#16), buf := s.buf.write s.tailSlot b,
      offered := s.offered ++ [b], accepted := s.accepted ++ [b] }) := by
  simp [State.enqueue, State.flagRxfull, h, State.setPtrs]

theorem validBit_validWord (b : Byte) : validBit (validWord b) = true := by
  simp [validBit, validWord]

theorem dataByte_validWord (b : Byte) : dataByte (validWord b) = b := by
  unfold dataByte validWord
  ext i hi
  have h8 : ¬ (8 = i) := by omega
  have : (0x100#32).getLsbD i = false := by
    rw [show (0x100#32) = BitVec.twoPow 32 8 from rfl, BitVec.getLsbD_twoPow]
    simp [h8]
  simp [this, BitVec.getLsbD_eq_getElem hi]
  omega

theorem dataByte_setWidth (b : Byte) : dataByte (b.setWidth 32) = b := by
  unfold dataByte
  ext i hi
  simp [BitVec.getLsbD_eq_getElem hi]
  omega

/-- Every offset of the window is the offset of its address. -/
theorem windowOffset_base_add (c : Config) (off : BitVec 12) :
    windowOffset c (c.base + off.toNat) = some off := by
  have := off.isLt
  rw [windowOffset, if_pos ⟨by omega, by omega⟩, Nat.add_sub_cancel_left, BitVec.ofNat_toNat,
    BitVec.setWidth_eq]

/-- An address outside the window has no offset. -/
theorem windowOffset_outside {c : Config} {addr : Nat} (h : addr < c.base ∨ c.base + 0xFFF < addr) :
    windowOffset c addr = none :=
  if_neg (by omega)

/-- READ: the buffer is empty, or it takes the byte of slot `head`. -/
theorem State.dequeue_cases {s t : State} {w : Word} (h : s.dequeue = some (w, t)) :
    (s.count = 0#16 ∧ w = 0#32 ∧ t = { s with answer := .rdata 0#32 }) ∨
    (s.count ≠ 0#16 ∧ s.head.toNat < s.cfg.n ∧ ∃ b d, w = validWord b ∧
      (∀ x, s.buf.read s.head.toNat = some x → b = x ∧ d = s.draws) ∧
      t = { s with hc := packHc s.nextHead (s.count - 1#16), answer := .rdata (validWord b),
                   draws := d, returned := s.returned ++ [b] }) := by
  unfold State.dequeue at h
  split at h
  · left
    simp at h
    exact ⟨‹_›, h.1.symm, by rw [← h.2]; rfl⟩
  · split at h
    · right
      simp at h
      refine ⟨‹_›, ‹_›, (s.slotByte s.head.toNat).1, (s.slotByte s.head.toNat).2, h.1.symm, ?_, ?_⟩
      · intro x hx; simp [State.slotByte, hx]
      · rw [← h.2]
    · cases h

/-- READ goes through wherever `head` is a slot. -/
theorem State.dequeue_isSome {s : State} (h : s.head.toNat < s.cfg.n) :
    ∃ w t, s.dequeue = some (w, t) := by
  unfold State.dequeue
  split
  · exact ⟨_, _, rfl⟩
  · exact ⟨_, _, rfl⟩

/-- WRITE: transmitter disabled, room, or overlap. -/
theorem State.transmit_cases (s : State) (b : Byte) :
    (s.txEnabled = false ∧ s.transmit b = { s with lastResult := 1#32 }) ∨
    (s.txEnabled = true ∧ s.txHold = none ∧
      s.transmit b = { s with txHold := some b, txSeq := s.txSeq ++ [b], lastResult := 1#32 }) ∨
    (s.txEnabled = true ∧ (∃ old, s.txHold = some old) ∧ ∃ x,
      s.transmit b = { s with txCorrupt := true, txHold := some x, draws := s.draws + 1,
                              txSeq := s.txSeq ++ [b], lastResult := 1#32 }) := by
  unfold State.transmit
  split
  · split
    · right; left; exact ⟨‹_›, ‹_›, rfl⟩
    · right; right; exact ⟨‹_›, ⟨_, ‹_›⟩, _, rfl⟩
  · rename_i h
    exact .inl ⟨by simpa using h, rfl⟩

/-- Interrupt delivery is RECEIVE of the waiting byte. -/
theorem State.deliver_eq {s : State} {b : Byte} (h : s.rxHold = some b) :
    s.deliver = ({ s with rxHold := none }.enqueue b).2 := by
  simp [State.deliver, State.takeRx, h, dataByte_setWidth]

theorem State.dispatchEnabled_iff (s : State) : s.dispatchEnabled = true ↔
    (∃ b, s.rxHold = some b) ∧ s.imsc.getLsbD 4 = true ∧ s.vicEnabled = true ∧
      s.vicHandler = some s.cfg.rxcb := by
  simp [State.dispatchEnabled, State.irqReq, State.flagRxris, State.rxim, Option.isSome_iff_exists,
    and_assoc]

/-- DISPATCH: the waiting byte leaves `rx_hold`, and is dropped or stored. -/
theorem State.deliver_cases {s : State} (h : s.dispatchEnabled = true) : ∃ b, s.rxHold = some b ∧
    ((s.count.toNat = s.cfg.n ∧
      s.deliver = { s with rxHold := none, overrunCount := satIncr s.overrunCount,
                           offered := s.offered ++ [b] }) ∨
     (s.count.toNat ≠ s.cfg.n ∧
      s.deliver = { s with rxHold := none, hc := packHc s.head (s.count + 1#16),
                           buf := s.buf.write s.tailSlot b, offered := s.offered ++ [b],
                           accepted := s.accepted ++ [b] })) := by
  obtain ⟨⟨b, hb⟩, -⟩ := s.dispatchEnabled_iff.1 h
  refine ⟨b, hb, ?_⟩
  rw [State.deliver_eq hb]
  by_cases hc : s.count.toNat = s.cfg.n
  · left
    have hc' : ({ s with rxHold := none } : State).count.toNat = ({ s with rxHold := none } : State).cfg.n := hc
    rw [State.enqueue_full hc']
    exact ⟨hc, rfl⟩
  · right
    have hc' : ({ s with rxHold := none } : State).count.toNat ≠ ({ s with rxHold := none } : State).cfg.n := hc
    rw [State.enqueue_room hc']
    exact ⟨hc, rfl⟩

/-- The sequencer's stores, written out. -/
theorem State.openMicro_o3 (s : State) (r : Word) (i : BitVec 16) (f : BitVec 6) :
    s.openMicro .o3 r i f = { s with ibrd := i, seq := .opening .o4 r i f } := by
  simp [State.openMicro, State.writeHardStored, State.storeReg]

theorem State.openMicro_o4 (s : State) (r : Word) (i : BitVec 16) (f : BitVec 6) :
    s.openMicro .o4 r i f = { s with fbrd := f, seq := .opening .o5 r i f } := by
  simp [State.openMicro, State.writeHardStored, State.storeReg]

theorem State.openMicro_o5 (s : State) (r : Word) (i : BitVec 16) (f : BitVec 6) :
    s.openMicro .o5 r i f = { s with lcrh := 0x60#8, seq := .opening .o6 r i f } := rfl

theorem State.openMicro_o6 (s : State) (r : Word) (i : BitVec 16) (f : BitVec 6) :
    s.openMicro .o6 r i f = { s with cr := 0x0301#16, seq := .opening .o7 r i f } := rfl

theorem State.openMicro_o7 (s : State) (r : Word) (i : BitVec 16) (f : BitVec 6) :
    s.openMicro .o7 r i f = { s with imsc := s.imsc ||| 0x010#11, seq := .opening .o8 r i f } := by
  simp [State.openMicro, State.setBitsStored, State.storeReg, State.valueOf, imscRxim]

theorem State.openMicro_o8 (s : State) (r : Word) (i : BitVec 16) (f : BitVec 6) :
    s.openMicro .o8 r i f = { s with vicEnabled := true, seq := .opening .o9 r i f } := by
  simp [State.openMicro, State.lineOn]

theorem State.openMicro_o9 (s : State) (r : Word) (i : BitVec 16) (f : BitVec 6) :
    s.openMicro .o9 r i f = { s with vicHandler := some s.cfg.rxcb, seq := .opening .o10 r i f } := by
  simp [State.openMicro, State.bindLine]

theorem State.openMicro_o10 (s : State) (r : Word) (i : BitVec 16) (f : BitVec 6) :
    s.openMicro .o10 r i f =
      { s with hc := 0#32, accepted := [], returned := [], seq := .opening .o11 r i f } := rfl

theorem State.openMicro_o11 (s : State) (r : Word) (i : BitVec 16) (f : BitVec 6) :
    s.openMicro .o11 r i f = { s with baudRate := r, lastResult := 1#32, seq := .idle } := rfl

theorem State.closeMicro_k2 (s : State) :
    s.closeMicro .k2 = { s with baudRate := 0#32, seq := .closing .k3 } := rfl

theorem State.closeMicro_k3 (s : State) :
    s.closeMicro .k3 =
      { s with hc := 0#32, lastResult := 1#32, accepted := [], returned := [], seq := .idle } := rfl

theorem State.lineOn_cases (s : State) (irq : Nat) :
    s.lineOn irq = s ∨ s.lineOn irq = { s with vicEnabled := true } := by
  unfold State.lineOn; split <;> simp

theorem State.lineOff_cases (s : State) (irq : Nat) :
    s.lineOff irq = s ∨ s.lineOff irq = { s with vicEnabled := false } := by
  unfold State.lineOff; split <;> simp

theorem State.bindLine_cases (s : State) (irq : Nat) (h : HandlerRef) :
    s.bindLine irq h = s ∨ s.bindLine irq h = { s with vicHandler := some h } := by
  unfold State.bindLine; split <;> simp

theorem State.takeRx_cases (s : State) :
    (∃ b, s.rxHold = some b ∧ s.takeRx = (b.setWidth 32, { s with rxHold := none })) ∨
    (s.rxHold = none ∧ ∃ b : Byte, s.takeRx = (b.setWidth 32, { s with draws := s.draws + 1 })) := by
  unfold State.takeRx
  split
  · exact .inl ⟨_, ‹_›, rfl⟩
  · exact .inr ⟨‹_›, _, rfl⟩

theorem State.closeStart_eq (s : State) :
    s.closeStart = { s with vicEnabled := false, seq := .closing .k2 } := by
  simp [State.closeStart, State.lineOff]

end Sys2Proof.Machine
end

