-- ==== Sys2Proof/Laws/PerInstr.lean ====
section
/-! SUPPORT. One lemma per operation: its operand lies in the DATA bits it takes (30_encoding R93, R102), and
it is well formed whenever a transaction word can name it (30_encoding R96). -/

namespace Sys2Proof.Laws

/-- The operand's bits are among those the operation takes, and a BUS operation is well formed. -/
def OperandInItsBits.Statement (i : Instr) : Prop :=
  i.operandData &&& usedDataMask i = i.operandData ∧ (i.isBus = true → i.wf = true)

/-- All bits taken. -/
theorem and_allBits (w : Word) : w &&& 0xFFFFFFFF#32 = w := BitVec.and_allOnes

/-- No bit taken. -/
theorem no_bits : 0#32 &&& 0#32 = 0#32 := by decide

/-- The low eight bits taken. -/
theorem byte_and_lowBits : ∀ b : Byte, b.setWidth 32 &&& 0x000000FF#32 = b.setWidth 32 := by decide

theorem OperandInItsBits.openDev (r : Word) : Statement (.openDev r) := ⟨and_allBits r, fun _ => rfl⟩
theorem OperandInItsBits.closeDev : Statement .closeDev := ⟨no_bits, fun _ => rfl⟩
theorem OperandInItsBits.rdStatus : Statement .rdStatus := ⟨no_bits, fun _ => rfl⟩
theorem OperandInItsBits.available : Statement .available := ⟨no_bits, fun _ => rfl⟩
theorem OperandInItsBits.read : Statement .read := ⟨no_bits, fun _ => rfl⟩
theorem OperandInItsBits.write (b : Byte) : Statement (.write b) := ⟨byte_and_lowBits b, fun _ => rfl⟩
theorem OperandInItsBits.flush : Statement .flush := ⟨no_bits, fun _ => rfl⟩
theorem OperandInItsBits.addReceiveHandler (cb : Word) : Statement (.addReceiveHandler cb) := ⟨and_allBits cb, fun _ => rfl⟩
theorem OperandInItsBits.clearReceiveHandlers : Statement .clearReceiveHandlers := ⟨no_bits, fun _ => rfl⟩
theorem OperandInItsBits.rdPtrs : Statement .rdPtrs := ⟨no_bits, fun _ => rfl⟩
theorem OperandInItsBits.rdOverrun : Statement .rdOverrun := ⟨no_bits, fun _ => rfl⟩
theorem OperandInItsBits.rdBaud : Statement .rdBaud := ⟨no_bits, fun _ => rfl⟩
theorem OperandInItsBits.rdResult : Statement .rdResult := ⟨no_bits, fun _ => rfl⟩
theorem OperandInItsBits.rdIbrd : Statement .rdIbrd := ⟨no_bits, fun _ => rfl⟩
theorem OperandInItsBits.rdFbrd : Statement .rdFbrd := ⟨no_bits, fun _ => rfl⟩
theorem OperandInItsBits.rdLcrh : Statement .rdLcrh := ⟨no_bits, fun _ => rfl⟩
theorem OperandInItsBits.rdCr : Statement .rdCr := ⟨no_bits, fun _ => rfl⟩
theorem OperandInItsBits.rdImsc : Statement .rdImsc := ⟨no_bits, fun _ => rfl⟩
theorem OperandInItsBits.isOpen : Statement .isOpen := ⟨no_bits, fun _ => rfl⟩
theorem OperandInItsBits.readInto (out : List Byte) (max : Nat) : Statement (.readInto out max) := ⟨no_bits, fun h => nomatch h⟩
theorem OperandInItsBits.writeBuf (bytes : List Byte) : Statement (.writeBuf bytes) := ⟨no_bits, fun _ => rfl⟩
theorem OperandInItsBits.receive (b : Byte) : Statement (.receive b) := ⟨no_bits, fun _ => rfl⟩
theorem OperandInItsBits.dispatch : Statement .dispatch := ⟨no_bits, fun _ => rfl⟩
theorem OperandInItsBits.rxDeliver (b : Byte) : Statement (.rxDeliver b) := ⟨no_bits, fun _ => rfl⟩
theorem OperandInItsBits.txEmit : Statement .txEmit := ⟨no_bits, fun _ => rfl⟩
theorem OperandInItsBits.regRead (reg : Reg) : Statement (.regRead reg) := ⟨no_bits, fun h => nomatch h⟩
theorem OperandInItsBits.setBits (reg : Reg) (mask : Word) : Statement (.setBits reg mask) := ⟨no_bits, fun h => nomatch h⟩
theorem OperandInItsBits.writeHard (reg : Reg) (value : Word) : Statement (.writeHard reg value) := ⟨no_bits, fun h => nomatch h⟩
theorem OperandInItsBits.enableLine (irq : Nat) : Statement (.enableLine irq) := ⟨no_bits, fun h => nomatch h⟩
theorem OperandInItsBits.disableLine (irq : Nat) : Statement (.disableLine irq) := ⟨no_bits, fun h => nomatch h⟩
theorem OperandInItsBits.bindHandler (irq : Nat) (h : HandlerRef) : Statement (.bindHandler irq h) := ⟨no_bits, fun h => nomatch h⟩

end Sys2Proof.Laws
end

