-- ==== Sys2Proof/Laws/Step.lean ====
section
/-! SUPPORT. Everything one step of the foreground, and one step of the machine, can do. -/

namespace Sys2Proof.Machine

/-- What a step of the foreground can do to the state, once the operation it issues, if any, is taken off
the operations still to come. -/
inductive FgMove (s : State) : State → Prop where
  | openMicro (k : OpenStep) (r : Word) (i : BitVec 16) (f : BitVec 6) (h : s.seq = .opening k r i f) :
      FgMove s (s.openMicro k r i f)
  | closeMicro (k : CloseStep) (h : s.seq = .closing k) : FgMove s (s.closeMicro k)
  /-- Nothing to issue, or an operation without effect. -/
  | stay (h : s.seq = .idle) : FgMove s s
  /-- An observation, or the end of a pseudo-operation that needs no transaction. -/
  | answer (h : s.seq = .idle) (a : Answer) : FgMove s { s with answer := a, loop := .quiet }
  /-- FLUSH, ADD_RECEIVE_HANDLER. -/
  | latchZero (h : s.seq = .idle) : FgMove s { s with lastResult := 0#32 }
  | openAccept (h : s.seq = .idle) (hl : s.loop = .quiet) (r : Word)
      (ha : (baudDiv s.cfg.clk r).accept = true) :
      FgMove s { s with
        seq := .opening .o3 r (baudDiv s.cfg.clk r).i (baudDiv s.cfg.clk r).f }
  | openReject (h : s.seq = .idle) (hl : s.loop = .quiet) (r : Word)
      (ha : (baudDiv s.cfg.clk r).accept = false) :
      FgMove s { s with baudRate := 0#32, lastResult := 0#32 }
  | close (h : s.seq = .idle) (hl : s.loop = .quiet) :
      FgMove s { s with vicEnabled := false, seq := .closing .k2 }
  /-- A READ transaction, alone or inside READ_INTO. -/
  | pop (h : s.seq = .idle) (w : Word) (t : State) (hd : s.dequeue = some (w, t)) (l : FgLoop)
      (a : Answer)
      (hl : l = .quiet ∨ ∃ out max n b,
        (s.loop = .readInto out max n ∨ s.loop = .quiet ∧ n = 0 ∧ max ≤ out.length) ∧
          n + 1 < max ∧ l = .readInto (out.set n b) max (n + 1)) :
      FgMove s { t with loop := l, answer := a }
  /-- A WRITE transaction, alone or inside WRITE_BUF. -/
  | transmit (h : s.seq = .idle) (b : Byte) (l : FgLoop) (a : Answer)
      (hl : l = .quiet ∨ ∃ rest len, l = .writeBuf rest len) :
      FgMove s { s.transmit b with loop := l, answer := a }
  | lineOn (h : s.seq = .idle) (irq : Nat) : FgMove s (s.lineOn irq)
  | lineOff (h : s.seq = .idle) (irq : Nat) : FgMove s (s.lineOff irq)
  | bindLine (h : s.seq = .idle) (irq : Nat) (g : HandlerRef) : FgMove s (s.bindLine irq g)

theorem State.eta_answer {s : State} (hl : s.loop = .quiet) (a : Answer) :
    s.reply a = { s with answer := a, loop := .quiet } := by
  rw [← hl]; rfl

theorem observe_move {s t : State} {w : Word} (h : observe s w = .next t) : FgMove s t := by
  obtain ⟨hq, hl, h⟩ := whenFree_next h
  cases h
  rw [State.eta_answer hl]
  exact .answer hq _

theorem transmit_loop (s : State) (b : Byte) : (s.transmit b).loop = s.loop := by
  rcases s.transmit_cases b with ⟨-, h⟩ | ⟨-, -, h⟩ | ⟨-, -, x, h⟩ <;> rw [h]

theorem readInto_move {s t : State} {out : List Byte} {max n : Nat} (hq : s.seq = .idle)
    (hl : s.loop = .readInto out max n ∨ s.loop = .quiet ∧ n = 0 ∧ max ≤ out.length)
    (h : readIntoTurn out max n s = .next t) : FgMove s t := by
  unfold readIntoTurn at h
  split at h
  · split at h
    · cases h
    · rename_i w u hd
      split at h
      · split at h
        · cases h
          exact .pop hq w u hd _ u.answer (.inr ⟨out, max, n, _, hl, ‹_›, rfl⟩)
        · cases h
          exact .pop hq w u hd .quiet _ (.inl rfl)
      · cases h
        exact .pop hq w u hd .quiet _ (.inl rfl)
  · cases h
    exact .answer hq _

theorem writeBuf_move {s : State} (hq : s.seq = .idle) (rest : List Byte) (len : Nat) :
    FgMove s (s.writeBufTurn rest len) := by
  unfold State.writeBufTurn
  split
  · exact .answer hq _
  · rename_i b
    exact .transmit hq b .quiet _ (.inl rfl)
  · rename_i b c more
    exact .transmit hq b (.writeBuf (c :: more) len) _ (.inr ⟨_, _, rfl⟩)

theorem dequeue_loop {s t : State} {w : Word} (h : s.dequeue = some (w, t)) : t.loop = s.loop := by
  rcases State.dequeue_cases h with ⟨-, -, rfl⟩ | ⟨-, -, b, d, -, -, rfl⟩ <;> rfl

theorem exec_bus_move {s t : State} {i : Instr} (hi : i.isBus = true) (h : exec i s = .next t) :
    FgMove s t := by
  cases i with
  | openDev r =>
    obtain ⟨hq, hl, h⟩ := whenFree_next h
    unfold State.openStart at h
    split at h <;> cases h
    · exact .openAccept hq hl r ‹_›
    · rename_i ha
      exact .openReject hq hl r (by simpa using ha)
  | closeDev =>
    obtain ⟨hq, hl, h⟩ := whenFree_next h
    rw [State.closeStart_eq] at h
    cases h
    exact .close hq hl
  | rdStatus | rdPtrs | rdOverrun | rdBaud | rdResult | rdIbrd | rdFbrd | rdLcrh | rdCr | rdImsc
  | available => exact observe_move h
  | read =>
    obtain ⟨hq, hl, h⟩ := whenFree_next h
    unfold readPop at h
    split at h
    · rename_i w u hd
      cases h
      have := FgMove.pop hq w t hd .quiet t.answer (.inl rfl)
      rwa [← hl, ← dequeue_loop hd] at this
    · cases h
  | write b =>
    obtain ⟨hq, hl, h⟩ := whenFree_next h
    cases h
    have := FgMove.transmit hq b .quiet (s.transmit b).answer (.inl rfl)
    rwa [← hl, ← transmit_loop s b] at this
  | flush =>
    obtain ⟨hq, -, h⟩ := whenFree_next h
    cases h
    exact .latchZero hq
  | addReceiveHandler cb =>
    obtain ⟨hq, -, h⟩ := whenFree_next h
    cases h
    exact .latchZero hq
  | clearReceiveHandlers =>
    obtain ⟨hq, -, h⟩ := whenFree_next h
    cases h
    exact .stay hq
  | isOpen | readInto | writeBuf | receive | dispatch | rxDeliver | txEmit | regRead | setBits
  | writeHard | enableLine | disableLine | bindHandler => simp [Instr.isBus, Instr.pattern] at hi

theorem runWord_move {s t : State} {w : TxnWord} (h : runWord w s = .next t) : FgMove s t := by
  unfold runWord at h
  split at h
  · exact exec_bus_move (decode_isBus ‹_›) h
  · cases h

theorem issue_move {s t : State} {op : HostOp} (hq : s.seq = .idle)
    (h : issue op s = .next t) : FgMove s t := by
  cases op with
  | bus w => exact runWord_move h
  | access k a d =>
    simp only [issue] at h
    split at h
    · exact runWord_move h
    · cases h
  | isOpen => exact observe_move_isOpen h
  | readInto out max =>
    obtain ⟨hq, hl, h⟩ := whenFree_next h
    split at h
    · exact readInto_move hq (.inr ⟨hl, rfl, ‹_›⟩) h
    · cases h
  | writeBuf bytes =>
    obtain ⟨hq, -, h⟩ := whenFree_next h
    cases h
    exact writeBuf_move hq _ _
  | enableLine irq => cases h; exact .lineOn hq irq
  | disableLine irq => cases h; exact .lineOff hq irq
  | bindHandler irq g => cases h; exact .bindLine hq irq g
where
  observe_move_isOpen {s t : State} (h : exec .isOpen s = .next t) : FgMove s t := by
    obtain ⟨hq, hl, h⟩ := whenFree_next h
    cases h
    rw [State.eta_answer hl]
    exact .answer hq _

/-- An operation that is one transaction is issued as that transaction. -/
theorem issue_word {s : State} {op : HostOp} {w : TxnWord} (h : op.word s.cfg = some w) :
    issue op s = runWord w s := by
  cases op <;> simp only [HostOp.word, Option.some.injEq, reduceCtorEq] at h
  · subst h; rfl
  · simp [issue, h]

/-- Inside READ_INTO the foreground's step is the loop's next iteration. -/
theorem stepFG_readInto {s : State} {out : List Byte} {max n : Nat} (hq : s.seq = .idle)
    (hl : s.loop = .readInto out max n) : stepFG s = readIntoTurn out max n s := by
  simp only [stepFG, hq, hl]

/-- Inside WRITE_BUF the foreground's step is the loop's next iteration. -/
theorem stepFG_writeBuf {s : State} {rest : List Byte} {len : Nat} (hq : s.seq = .idle)
    (hl : s.loop = .writeBuf rest len) : stepFG s = .next (s.writeBufTurn rest len) := by
  simp only [stepFG, hq, hl]

/-- A free foreground issues the oldest operation still to come. -/
theorem stepFG_issue {s : State} {op : HostOp} {ops : List HostOp} (hq : s.seq = .idle)
    (hl : s.loop = .quiet) (hh : s.host = op :: ops) :
    stepFG s = issue op { s with host := ops } := by
  simp only [stepFG, hq, hl, hh]

/-- One iteration of READ_INTO, with a byte still asked for: it returns when nothing is there, else it
copies the oldest byte and returns with the last one asked for. -/
theorem readIntoTurn_cases {s t : State} {out : List Byte} {max n : Nat} (hn : n < max)
    (h : readIntoTurn out max n s = .next t) :
    (s.count = 0#16 ∧ t = { s with answer := .copied n out, loop := .quiet }) ∨
    (s.count ≠ 0#16 ∧ ∃ b d, (∀ x, s.buf.read s.head.toNat = some x → b = x ∧ d = s.draws) ∧
      t = { s with
        hc := packHc s.nextHead (s.count - 1#16)
        draws := d
        returned := s.returned ++ [b]
        answer := if n + 1 < max then .rdata (validWord b) else .copied (n + 1) (out.set n b)
        loop := if n + 1 < max then .readInto (out.set n b) max (n + 1) else .quiet }) := by
  simp only [readIntoTurn, hn, if_true] at h
  split at h
  · cases h
  · rename_i w u hd
    rcases State.dequeue_cases hd with ⟨hc, rfl, rfl⟩ | ⟨hc, -, b, d, rfl, hb, rfl⟩
    · cases h
      exact .inl ⟨hc, rfl⟩
    · refine .inr ⟨hc, b, d, hb, ?_⟩
      simp only [validBit_validWord, dataByte_validWord, if_true] at h
      by_cases h1 : n + 1 < max <;> simp only [h1, if_true, if_false] at h ⊢ <;> cases h <;> rfl

/-- A step of the foreground: the operation in progress goes on, or the next one is issued. -/
theorem stepFG_cases {s t : State} (h : stepFG s = .next t) :
    (FgMove s t ∧ (s.seq = .idle → s.loop = .quiet → t = s)) ∨
    (s.seq = .idle ∧ s.loop = .quiet ∧ ∃ op ops, s.host = op :: ops ∧
      issue op { s with host := ops } = .next t ∧ FgMove { s with host := ops } t) := by
  unfold stepFG at h
  split at h
  · cases h; exact .inl ⟨.openMicro _ _ _ _ ‹_›, fun hi => by simp_all⟩
  · cases h; exact .inl ⟨.closeMicro _ ‹_›, fun hi => by simp_all⟩
  · rename_i hq
    split at h
    · exact .inl ⟨readInto_move hq (.inl ‹_›) h, fun _ hl => by simp_all⟩
    · cases h; exact .inl ⟨writeBuf_move hq _ _, fun _ hl => by simp_all⟩
    · rename_i hl
      split at h
      · cases h; exact .inl ⟨.stay hq, fun _ _ => rfl⟩
      · exact .inr ⟨hq, hl, _, _, ‹_›, h, issue_move hq h⟩

/-- What a step of the machine can do, once its turn is taken off the schedule. -/
inductive Move (s : State) : State → Prop where
  /-- The foreground goes on with the operation in progress, or has nothing to issue. -/
  | fg {t : State} (ht : s.nextTurn.1 = .fg) (h : FgMove s.nextTurn.2 t)
      (hi : s.seq = .idle → s.loop = .quiet → t = s.nextTurn.2) : Move s t
  /-- The foreground issues the next operation. -/
  | fgIssue {t : State} (ht : s.nextTurn.1 = .fg) (op : HostOp) (ops : List HostOp)
      (hq : s.seq = .idle) (hl : s.loop = .quiet) (hh : s.host = op :: ops)
      (hi : issue op { s.nextTurn.2 with host := ops } = .next t)
      (h : FgMove { s.nextTurn.2 with host := ops } t) : Move s t
  | dispatch (ht : s.nextTurn.1 = .disp) (h : s.nextTurn.2.dispatchEnabled = true) :
      Move s s.nextTurn.2.deliver
  | passes (ht : s.nextTurn.1 ≠ .fg) (hr : s.nextTurn.1 ≠ .reset) : Move s s.nextTurn.2
  | received (b : Byte) (ht : s.nextTurn.1 = .lineRx b) (h : s.nextTurn.2.rxHold = none) :
      Move s { s.nextTurn.2 with rxHold := some b, rxSeq := s.rxSeq ++ [b] }
  | overrun (b : Byte) (ht : s.nextTurn.1 = .lineRx b) : Move s { s.nextTurn.2 with lineOverrun := true }
  | emitted (b : Byte) (ht : s.nextTurn.1 = .lineTx) (h : s.nextTurn.2.txHold = some b) :
      Move s { s.nextTurn.2 with txLog := s.txLog ++ [b], txHold := none }
  | reset (ht : s.nextTurn.1 = .reset) : Move s s.nextTurn.2.applyReset

/-- Taking a turn off the schedule touches nothing else. -/
theorem State.nextTurn_snd (s : State) : s.nextTurn.2 = { s with sched := s.sched.tail } := by
  unfold State.nextTurn
  split <;> rename_i h <;> simp [h]
  rw [← h]

/-- One step of the machine, whoever takes it. -/
theorem step_cases {s t : State} (h : step s = .next t) : Move s t := by
  have hs := s.nextTurn_snd
  unfold step takeTurn at h
  split at h <;> rename_i ht
  · rcases stepFG_cases h with ⟨h, hi⟩ | ⟨hq, hl, op, ops, hh, hi, h⟩
    · refine .fg ht h ?_
      rw [hs] at hi ⊢
      exact hi
    · rw [hs] at hq hl hh
      exact .fgIssue ht op ops hq hl hh hi h
  · unfold stepDISP at h
    split at h
    · simp only [exec, execDispatch, ‹_ = true›, if_true] at h
      cases h
      exact .dispatch ht ‹_›
    · cases h; exact .passes (by simp [ht]) (by simp [ht])
  · rename_i b
    simp only [stepLineRx, exec, execRxDeliver] at h
    split at h
    · split at h <;> cases h
      · have := Move.received b ht ‹_›
        rw [show s.rxSeq = s.nextTurn.2.rxSeq by rw [hs]] at this
        exact this
      · exact .overrun b ht
    · cases h; exact .passes (by simp [ht]) (by simp [ht])
  · unfold stepLineTx at h
    split at h
    · simp only [exec, execTxEmit] at h
      split at h
      · split at h
        · cases h
          have := Move.emitted _ ht ‹_›
          rw [show s.txLog = s.nextTurn.2.txLog by rw [hs]] at this
          exact this
        · cases h
      · cases h
    · cases h; exact .passes (by simp [ht]) (by simp [ht])
  · cases h; exact .reset ht

end Sys2Proof.Machine
end

