-- ==== Sys2Proof/Tests/Slice0.lean ====
section
/-! SUPPORT. Small tests, their expected results written out from the rules and from spec/95_test_vectors.md,
and a witness for the hypotheses of each statement. -/

namespace Sys2Proof.Tests

open Sys2Proof Sys2Proof.Machine

/-! ## Helpers -/

/-- The next state, if that is the outcome. -/
def after : Result → Option State
  | .next t => some t
  | _ => none

/-- The refusal, if that is the outcome. -/
def stop : Result → Option Refusal
  | .refused r => some r
  | _ => none

/-- The decoder's answer, as an option. -/
def op (t : TxnWord) : Option Instr := (decode t).toOption

/-- The decoder's reason for refusing. -/
def why (t : TxnWord) : Option Reject :=
  match decode t with
  | .ok _ => none
  | .error e => some e

/-- The example device after `OPEN 115200` (41_lifecycle R139's example). -/
def live : State :=
  { State.reset with
    baudRate := 115200#32, lastResult := 1#32, ibrd := 13#16, fbrd := 1#6, lcrh := 0x60#8
    cr := 0x0301#16, imsc := 0x010#11, vicEnabled := true, vicHandler := some 0 }

/-- The open device with bytes 0x41, 0x42 buffered from slot 3 on. -/
def two : State :=
  { live with
    hc := 0x00030002#32, buf := [(0, 0x42#8), (3, 0x41#8)]
    offered := [0x41#8, 0x42#8], accepted := [0x41#8, 0x42#8], rxSeq := [0x41#8, 0x42#8] }

/-- The open device with its four slots full. -/
def full : State :=
  { live with
    hc := 4#32, buf := [(0, 0xA0#8), (1, 0xA1#8), (2, 0xA2#8), (3, 0xA3#8)] }

/-- The open device with a byte waiting to be dispatched. -/
def pending : State := { two with rxHold := some 0x43#8, rxSeq := [0x41#8, 0x42#8, 0x43#8] }

/-- The open device with a byte waiting to leave. -/
def sending : State := { live with txHold := some 0x41#8, txSeq := [0x41#8] }

/-! ## Well-formedness: an ill-formed operation for each check -/

theorem test_wf_readInto_room : (Instr.readInto [0#8] 2).wf = false := by decide
theorem test_wf_readInto_exact : (Instr.readInto [0#8] 1).wf = true := by decide
theorem test_wf_regRead_close : (Instr.regRead .close).wf = false := by decide
theorem test_wf_setBits_dr : (Instr.setBits .dr 1#32).wf = false := by decide
theorem test_wf_setBits_rxpop : (Instr.setBits .rxpop 1#32).wf = false := by decide
theorem test_wf_enableLine : (Instr.enableLine 32).wf = false := by decide
theorem test_wf_disableLine : (Instr.disableLine 32).wf = false := by decide
theorem test_wf_bindHandler : (Instr.bindHandler 32 0).wf = false := by decide
theorem test_wf_line_31 : (Instr.bindHandler 31 0).wf = true := by decide

/-! ## Decoding: KIND, RSV, OFF, DATA written out (30_encoding R91, R98; 95_test_vectors 2.1) -/

theorem test_decode_write :
    op 0b1000_0000_0000_0000_0000_0000_0000_0000_0000_0000_0100_0001#48 = some (.write 0x41#8) := by
  decide
theorem test_decode_write_ignored : op 0x8000FFFFFF41#48 = some (.write 0x41#8) := by decide
theorem test_decode_rdIbrd :
    op 0b0000_0000_0010_0100_0000_0000_0000_0000_0000_0000_0000_0000#48 = some .rdIbrd := by decide
theorem test_decode_rdFbrd : op 0x002800000000#48 = some .rdFbrd := by decide
theorem test_decode_rdLcrh : op 0x002C00000000#48 = some .rdLcrh := by decide
theorem test_decode_rdCr : op 0x003000000000#48 = some .rdCr := by decide
theorem test_decode_rdImsc : op 0x003800000000#48 = some .rdImsc := by decide
theorem test_decode_rdBaud : op 0x0100DEADBEEF#48 = some .rdBaud := by decide
theorem test_decode_open :
    op 0b1000_0001_0000_0000_0000_0000_0000_0001_1100_0010_0000_0000#48
      = some (.openDev 115200#32) := by decide
theorem test_decode_open_all_bits : op 0x8100FFFFFFFF#48 = some (.openDev 4294967295#32) := by decide
theorem test_decode_close : op 0x810412345678#48 = some .closeDev := by decide
theorem test_decode_rdStatus : op 0x010800000000#48 = some .rdStatus := by decide
theorem test_decode_available : op 0x010C00000000#48 = some .available := by decide
theorem test_decode_read : op 0x011000000000#48 = some .read := by decide
theorem test_decode_flush : op 0x811400000000#48 = some .flush := by decide
theorem test_decode_addReceiveHandler :
    op 0x811800001234#48 = some (.addReceiveHandler 0x1234#32) := by decide
theorem test_decode_clearReceiveHandlers : op 0x811C00000000#48 = some .clearReceiveHandlers := by
  decide
theorem test_decode_rdPtrs : op 0x012000000000#48 = some .rdPtrs := by decide
theorem test_decode_rdOverrun : op 0x012400000000#48 = some .rdOverrun := by decide
theorem test_decode_rdResult : op 0x012800000000#48 = some .rdResult := by decide

theorem test_refuse_setBits_baud : why 0x410000000001#48 = some (.notAdmitted .setBits .baud) := by
  decide
theorem test_refuse_o7_form : why 0x403800000010#48 = some (.notAdmitted .setBits .imsc) := by decide
theorem test_refuse_rsv : why 0x910000002580#48 = some .reservedBits := by decide
theorem test_refuse_kind : why 0xC00000000000#48 = some .reservedKind := by decide
theorem test_refuse_read_dr : why 0x000000000000#48 = some (.notAdmitted .read .dr) := by decide
theorem test_refuse_misaligned : why 0x800100000041#48 = some .misaligned := by decide
theorem test_refuse_unmapped : why 0x020000000000#48 = some .unmapped := by decide
theorem test_refuse_reserved_offset : why 0x001800000000#48 = some .unmapped := by decide
theorem test_refuse_write_rxpop : why 0x811000000000#48 = some (.notAdmitted .writeHard .rxpop) := by
  decide
theorem test_refuse_read_close : why 0x010400000000#48 = some (.notAdmitted .read .close) := by decide
theorem test_refuse_write_ibrd : why 0x80240000000D#48 = some (.notAdmitted .writeHard .ibrd) := by
  decide
theorem test_refuse_write_status : why 0x810800000000#48 = some (.notAdmitted .writeHard .status) := by
  decide

/-- 30_encoding R109, R110: the written form of micro-step O7. -/
theorem test_written_o7 :
    writtenForm (.setBits .imsc 0x10#32) = some 0x403800000010#48 ∧
      readWrittenForm 0x403800000010#48 = some (.setBits .imsc 0x10#32) := by decide
theorem test_written_o3 : writtenForm (.writeHard .ibrd 13#32) = some 0x80240000000D#48 := by decide
theorem test_written_dr : readWrittenForm 0#48 = some (.regRead .dr) := by decide

theorem test_table_word : decodeTableWord 48 0x81000001C200 = some (.openDev 115200#32) := by decide
/-- The word placed where the foreground fetches is what the next step runs (41_lifecycle R137, O1, O2). -/
theorem test_fetch_open :
    (after (step (State.reset.withFetchWord 48 0x81000001C200))).map (·.seq)
      = some (.opening .o3 115200#32 13#16 1#6) := by decide

/-! ## Lifecycle (41_lifecycle, 42_baud_divisor R164) -/

theorem test_open_latches :
    after (exec (.openDev 9600#32) State.reset)
      = some { State.reset with seq := .opening .o3 9600#32 156#16 16#6 } := by decide
/-- R138: a failed re-OPEN closes the device and leaves everything else. -/
theorem test_open_fails_returns_to_closed :
    after (exec (.openDev 1#32) two) = some { two with baudRate := 0#32, lastResult := 0#32 } := by
  decide
/-- R137, O7: the other mask bits are kept. -/
theorem test_open_o7_keeps_mask_bits :
    (after (stepFG { live with imsc := 0x020#11, seq := .opening .o7 9600#32 156#16 16#6 })).map
      (·.imsc) = some 0x030#11 := by decide
/-- R137, O10: the pointers go, the slots stay. -/
theorem test_open_o10_empties :
    (after (stepFG { two with seq := .opening .o10 9600#32 156#16 16#6 })).map
      (fun t => (t.hc, t.buf, t.baudRate)) = some (0#32, two.buf, 115200#32) := by decide
/-- R141, K1: the line first. -/
theorem test_close_disables_first :
    after (exec .closeDev two) = some { two with vicEnabled := false, seq := .closing .k2 } := by decide
/-- R141, K3, and what CLOSE does not touch. -/
theorem test_close_k3 :
    (after (stepFG { pending with seq := .closing .k3, baudRate := 0#32 })).map
      (fun t => (t.hc, t.lastResult, t.rxHold, t.cr, t.seq))
      = some (0#32, 1#32, some 0x43#8, 0x0301#16, .idle) := by decide
theorem test_isOpen_reset :
    (after (exec .isOpen State.reset)).map (·.answer) = some (.value 0) := by decide
theorem test_isOpen_open : (after (exec .isOpen live)).map (·.answer) = some (.value 1) := by decide

/-- R164: rows of the table of worked values. -/
theorem test_divisor_half_rounds_up :
    baudDiv 24000000 14400#32 = { i := 104#16, f := 11#6, accept := true } := by decide
theorem test_divisor_wrap :
    baudDiv 24000000 307#32 = { i := 4885#16, f := 0#6, accept := true } := by decide

/-! ## Ring buffer (43_ring_buffer) -/

/-- R171's example: `N = 4`, `head = 2`, `count = 3`. -/
theorem test_receive_wraps :
    (after (exec (.receive 0x5A#8) { live with hc := 0x00020003#32 })).map
      (fun t => (t.hc, t.buf, t.answer))
      = some (0x00020004#32, [(1, 0x5A#8)], .accepted true) := by decide
/-- 95_test_vectors S4. -/
theorem test_receive_full :
    (after (exec (.receive 0xA4#8) full)).map (fun t => (t.hc, t.buf, t.overrunCount, t.answer))
      = some (4#32, full.buf, 1#32, .accepted false) := by decide
/-- R174's example: `head = 3`, `count = 2`, `buf[3] = 0x41`. -/
theorem test_read_wraps :
    (after (exec .read two)).map (fun t => (t.hc, t.answer, t.buf, t.lastResult))
      = some (0x00000001#32, .rdata 0x00000141#32, two.buf, 1#32) := by decide
theorem test_read_empty :
    after (exec .read live) = some { live with answer := .rdata 0#32 } := by decide
theorem test_available :
    (after (exec .available { live with hc := 3#32 })).map (·.answer) = some (.rdata 3#32) := by decide
/-- R176 (a): no READ is issued. -/
theorem test_readInto_nothing :
    after (exec (.readInto [7#8] 0) two) = some { two with answer := .copied 0 [7#8] } := by decide
/-- R176 (c): exactly `max` bytes, no probing READ; `out[i]` for `i ≥ n` not written. -/
theorem test_readInto_last :
    (after (exec (.readInto [7#8, 8#8] 1) two)).map (fun t => (t.hc, t.answer, t.loop))
      = some (0x00000001#32, .copied 1 [0x41#8, 8#8], .quiet) := by decide

/-! ## Transmit (44_transmit) -/

theorem test_write_room :
    (after (exec (.write 0x41#8) { live with lastResult := 0#32 })).map
      (fun t => (t.txHold, t.lastResult, t.txCorrupt)) = some (some 0x41#8, 1#32, false) := by decide
/-- R191 (a): before the first OPEN nothing changes but `last_result`. -/
theorem test_write_disabled :
    after (exec (.write 0x41#8) State.reset) = some { State.reset with lastResult := 1#32 } := by decide
/-- R193 (a). -/
theorem test_writeBuf_nothing :
    after (exec (.writeBuf []) { live with lastResult := 5#32 })
      = some { live with lastResult := 5#32, answer := .value 0 } := by decide
theorem test_writeBuf_first :
    (after (exec (.writeBuf [0x68#8, 0x69#8]) live)).map (fun t => (t.txHold, t.loop))
      = some (some 0x68#8, .writeBuf [0x69#8] 2) := by decide
/-- R194's example. -/
theorem test_flush : after (exec .flush sending) = some { sending with lastResult := 0#32 } := by decide
theorem test_txEmit :
    after (exec .txEmit sending) = some { sending with txLog := [0x41#8], txHold := none } := by decide
theorem test_txEmit_disabled :
    stop (exec .txEmit { sending with cr := 0x0300#16 }) = some (.notEnabled .lineTx) := by decide

/-! ## Binding (45_binding_and_handlers) -/

theorem test_enableLine :
    (after (exec (.enableLine 12) State.reset)).map (·.vicEnabled) = some true := by decide
theorem test_enableLine_other : after (exec (.enableLine 13) State.reset) = some State.reset := by
  decide
/-- R202's example: the byte stays, RXMIS stays 1, no DISPATCH can occur. -/
theorem test_disableLine :
    (after (exec (.disableLine 12) pending)).map
      (fun t => (t.rxHold, t.irqReq, t.dispatchEnabled)) = some (some 0x43#8, true, false) := by decide
theorem test_bindHandler :
    (after (exec (.bindHandler 12 0) State.reset)).map (·.vicHandler) = some (some 0) := by decide
/-- R203: another handler on the line leaves the dispatcher disabled. -/
theorem test_bindHandler_foreign :
    (after (exec (.bindHandler 12 9) pending)).map (·.dispatchEnabled) = some false := by decide
theorem test_addReceiveHandler :
    after (exec (.addReceiveHandler 0x1234#32) live) = some { live with lastResult := 0#32 } := by decide
theorem test_clearReceiveHandlers : after (exec .clearReceiveHandlers live) = some live := by decide

/-! ## Observation (46_observation_registers; the examples of R216 to R221) -/

theorem test_rdStatus_pending :
    (after (exec .rdStatus pending)).map (·.answer) = some (.rdata 0x00000033#32) := by decide
theorem test_rdStatus_full :
    (after (exec .rdStatus { full with txHold := some 0x41#8 })).map (·.answer)
      = some (.rdata 0x0000000F#32) := by decide
theorem test_rdPtrs : (after (exec .rdPtrs two)).map (·.answer) = some (.rdata 0x00030002#32) := by
  decide
theorem test_rdOverrun :
    (after (exec .rdOverrun { live with overrunCount := 1#32 })).map (·.answer)
      = some (.rdata 1#32) := by decide
theorem test_rdBaud :
    (after (exec .rdBaud { live with baudRate := 9600#32 })).map (·.answer)
      = some (.rdata 0x00002580#32) := by decide
theorem test_rdResult : (after (exec .rdResult live)).map (·.answer) = some (.rdata 1#32) := by decide
theorem test_rdIbrd : (after (exec .rdIbrd live)).map (·.answer) = some (.rdata 0x0000000D#32) := by
  decide
theorem test_rdFbrd : (after (exec .rdFbrd live)).map (·.answer) = some (.rdata 0x00000001#32) := by
  decide
theorem test_rdLcrh : (after (exec .rdLcrh live)).map (·.answer) = some (.rdata 0x00000060#32) := by
  decide
theorem test_rdCr : (after (exec .rdCr live)).map (·.answer) = some (.rdata 0x00000301#32) := by decide
theorem test_rdImsc : (after (exec .rdImsc live)).map (·.answer) = some (.rdata 0x00000010#32) := by
  decide

/-! ## The line and the dispatcher (60_exceptions) -/

/-- R238's example. -/
theorem test_rxDeliver :
    (after (exec (.rxDeliver 0x41#8) live)).map (fun t => (t.rxHold, t.irqReq, t.rxSeq))
      = some (some 0x41#8, true, [0x41#8]) := by decide
theorem test_rxDeliver_overrun :
    (after (exec (.rxDeliver 0x44#8) pending)).map (fun t => (t.rxHold, t.lineOverrun))
      = some (some 0x43#8, true) := by decide
/-- R240's example: `head = 0`, `count = 1`, `rx_hold = some 0x42`. -/
theorem test_dispatch :
    (after (exec .dispatch { live with hc := 1#32, buf := [(0, 0x41#8)], rxHold := some 0x42#8 })).map
      (fun t => (t.hc, t.buf, t.rxHold, t.irqReq, t.lastResult))
      = some (2#32, [(0, 0x41#8), (1, 0x42#8)], none, false, 1#32) := by decide
/-- R240 (d): a full buffer empties the holding register and never sets `line_overrun`. -/
theorem test_dispatch_full :
    (after (exec .dispatch { full with rxHold := some 0x42#8 })).map
      (fun t => (t.rxHold, t.overrunCount, t.lineOverrun, t.buf))
      = some (none, 1#32, false, full.buf) := by decide

/-! ## The primitives (40_register_primitives; 95_test_vectors 2.2) -/

theorem test_regRead_fill :
    (after (exec (.regRead .fill) { live with hc := 3#32 })).map (·.answer) = some (.rdata 3#32) := by
  decide
theorem test_regRead_dr :
    (after (exec (.regRead .dr) { live with rxHold := some 0x7E#8 })).map
      (fun t => (t.answer, t.rxHold)) = some (.rdata 0x0000007E#32, none) := by decide
theorem test_setBits_keeps :
    (after (exec (.setBits .imsc 0x010#32) { live with imsc := 0x020#11 })).map (·.imsc)
      = some 0x030#11 := by decide
theorem test_setBits_truncates :
    (after (exec (.setBits .imsc 0xFFFFFFFF#32) State.reset)).map (·.imsc) = some 0x7FF#11 := by decide
theorem test_writeHard_fbrd :
    (after (exec (.writeHard .fbrd 0x7F#32) State.reset)).map (·.fbrd) = some 0x3F#6 := by decide
theorem test_writeHard_ibrd :
    (after (exec (.writeHard .ibrd 0x0001000D#32) { live with ibrd := 999#16 })).map (·.ibrd)
      = some 0x000D#16 := by decide

/-! ## Witnesses: a state and operands that meet the hypotheses of each statement -/

/-- A state whose foreground is free is sound when the structural conditions hold. -/
theorem sound_of {s : State} (hq : s.seq = .idle) (hl : s.loop = .quiet)
    (h : s.cfg.wf ∧ s.count.toNat ≤ s.cfg.n ∧ s.head.toNat < s.cfg.n ∧ s.buf.wf = true ∧
      (∀ c ∈ s.buf, c.1 < s.cfg.n) ∧
      (∀ i < s.count.toNat, (s.buf.read ((s.head.toNat + i) % s.cfg.n)).isSome = true) ∧
      (s.lcrh = 0x00#8 ∨ s.lcrh = 0x60#8) ∧ (s.cr = 0x0000#16 ∨ s.cr = 0x0301#16) ∧
      (s.imsc = 0x000#11 ∨ s.imsc = 0x010#11)) : Sound s where
  cfgOk := h.1
  countLe := h.2.1
  headLt := h.2.2.1
  bufOk := h.2.2.2.1
  slotsOk := h.2.2.2.2.1
  liveWritten := h.2.2.2.2.2.1
  lcrhVal := h.2.2.2.2.2.2.1
  crVal := h.2.2.2.2.2.2.2.1
  imscVal := h.2.2.2.2.2.2.2.2
  oneOperation := .inl hq
  openLatched := by intro k r i f e; rw [hq] at e; cases e
  closingDisarmed := by intro k e; rw [hq] at e; cases e
  loopRoom := by intro out max n e; rw [hl] at e; cases e

theorem sound_two : Sound two := sound_of rfl rfl (by decide)
theorem sound_full : Sound full := sound_of rfl rfl (by decide)
theorem sound_pending : Sound pending := sound_of rfl rfl (by decide)

/-- The open device halfway through a re-OPEN, between O6 and O7. -/
def reopening : State := { two with seq := .opening .o7 115200#32 13#16 1#6 }

theorem sound_reopening : Sound reopening :=
  { sound_two with
    oneOperation := .inr rfl
    openLatched := by intro k r i f e; cases e; decide
    closingDisarmed := by intro k e; cases e }

/-- The open device between K1 and K2 of CLOSE. -/
def closing : State := { two with seq := .closing .k2, vicEnabled := false }

/-- The open device with one word to issue. -/
def issuing (t : TxnWord) : State := { two with host := [.bus t] }

theorem wit_DecodeOfEncode : encode (.write 0x41#8) = some 0x800000000041#48 := by decide
theorem wit_DecodeOfEncode_allBits : encode (.openDev 4294967295#32) = some 0x8100FFFFFFFF#48 := by
  decide
theorem wit_EncodeOfDecode : decode 0x8000FFFFFF41#48 = .ok (.write 0x41#8) := by decide
theorem wit_IgnoredBitsDoNotMatter :
    decode 0x8000FFFFFF41#48 = .ok (.write 0x41#8) ∧
      0x800012345641#48 &&& (0xFFFF#16 ++ usedDataMask (.write 0x41#8))
        = 0x8000FFFFFF41#48 &&& (0xFFFF#16 ++ usedDataMask (.write 0x41#8)) := by decide

/-- The addresses on either side of the window. -/
theorem wit_AddressedAccessIsTransaction :
    0x101F0FFF < Config.example24MHz.base ∧ Config.example24MHz.base + 0xFFF < 0x101F2000 := by decide

/-- The open device with one primitive at an address to issue. -/
def accessing (k : Kind) (addr : Nat) (data : Word) : State := { two with host := [.access k addr data] }

/-- OPEN at `BASE + 0x100`, and the window's last register. -/
theorem wit_StepRunsDecodedTransaction_access :
    let s := accessing .writeHard 0x101F1100 9600#32
    s.seq = .idle ∧ s.loop = .quiet ∧ s.host = .access .writeHard 0x101F1100 9600#32 :: [] ∧
      HostOp.word s.cfg (.access .writeHard 0x101F1100 9600#32) = some 0x810000002580#48 ∧
      s.sched = [] ∧ decode 0x810000002580#48 = .ok (.openDev 9600#32) ∧
      HostOp.word s.cfg (.access .read 0x101F1128 0#32) = some 0x012800000000#48 ∧
      decode 0x012800000000#48 = .ok .rdResult := by decide
theorem wit_StepRunsDecodedTransaction :
    (issuing 0x011000000000#48).seq = .idle ∧ (issuing 0x011000000000#48).loop = .quiet ∧
      (issuing 0x011000000000#48).host = .bus 0x011000000000#48 :: [] ∧
      (issuing 0x011000000000#48).sched = [] ∧ decode 0x011000000000#48 = .ok .read := by decide
theorem wit_StepRunsDecodedTransaction_turn :
    ({ issuing 0x011000000000#48 with sched := [.fg, .disp] } : State).sched = .fg :: [.disp] := rfl
theorem wit_StepRunsPseudoOperationsAndEvents :
    let s : State := { two with sched := [.fg], host := [.readInto [0#8] 1] }
    s.seq = .idle ∧ s.loop = .quiet ∧ s.sched = .fg :: [] ∧ s.host = .readInto [0#8] 1 :: [] := by
  decide
/-- The foreground's turn inside an operation, and by an empty schedule. -/
theorem wit_StepRunsPseudoOperationsAndEvents_inside :
    ({ reopening with sched := [.fg] } : State).sched = .fg :: [] ∧ reopening.sched = [] := by decide
theorem wit_StepRunsPseudoOperationsAndEvents_events :
    ({ pending with sched := [.disp] } : State).dispatchEnabled = true ∧
      ({ two with sched := [.disp] } : State).dispatchEnabled = false ∧
      ({ sending with sched := [.lineTx] } : State).emitEnabled = true ∧
      ({ two with sched := [.lineTx] } : State).emitEnabled = false := by decide
/-- 00_scope R10: a window high in the address space has its own addresses, and no low one is in it. -/
theorem test_window_does_not_wrap :
    let c : Config := { Config.example24MHz with base := 0xFFFFFF00 }
    busTransaction c .read 0x100000028 0#32 = some 0x012800000000#48 ∧
      busTransaction c .read 0x00000028 0#32 = none := by decide
/-- The bytes beside the window, and its last one, which is inside and refused by the decoder. -/
theorem wit_StepRefusesTransaction_access :
    let s := accessing .read 0x101F2000 0#32
    s.seq = .idle ∧ s.loop = .quiet ∧ s.host = .access .read 0x101F2000 0#32 :: [] ∧ s.sched = [] ∧
      s.cfg.base + 0xFFF < 0x101F2000 ∧ 0x101F0FFF < s.cfg.base ∧
      HostOp.word s.cfg (.access .read 0x101F1FFF 0#32) = some 0x0FFF00000000#48 ∧
      decode 0x0FFF00000000#48 = .error .misaligned := by decide
theorem wit_StepRefusesTransaction :
    let s : State := { issuing 0xC00000000000#48 with sched := [.fg] }
    s.seq = .idle ∧ s.loop = .quiet ∧ s.host = .bus 0xC00000000000#48 :: [] ∧ s.sched = .fg :: [] ∧
      decode 0xC00000000000#48 = .error .reservedKind := by decide

theorem wit_DivisorFormula : (0#32 : Word) = 0#32 ∧ (115200#32 : Word) ≠ 0#32 := by decide
theorem wit_FractionWrapDoesNotCarry :
    (307#32 : Word) ≠ 0#32 ∧ 8 * (24000000 % (16 * (307#32 : Word).toNat)) / (307#32 : Word).toNat = 127 := by
  decide
theorem wit_OpenStepsInOrder_start :
    two.seq = .idle ∧ two.loop = .quiet ∧ baudDiv two.cfg.clk 23#32 = { i := 65217#16, f := 25#6, accept := true } := by decide
theorem wit_OpenRejectedCloses :
    two.seq = .idle ∧ two.loop = .quiet ∧ (baudDiv two.cfg.clk 22#32).accept = false ∧
      (baudDiv two.cfg.clk 0#32).accept = false := by decide
theorem wit_OpenStepsInOrder :
    ∀ k ∈ [OpenStep.o3, .o4, .o5, .o6, .o7, .o8, .o9, .o10, .o11],
      ({ two with seq := .opening k 23#32 65217#16 25#6 } : State).seq
        = .opening k 23#32 65217#16 25#6 := by decide

/-- Ten foreground turns with the other agents between them. -/
def busyLine : List Turn :=
  [.fg, .lineRx 1#8, .fg, .disp, .fg, .fg, .fg, .fg, .lineTx, .fg, .fg, .fg, .disp, .fg]

theorem wit_OpenCompletesUnderAnyInterleaving :
    let s : State := { issuing 0x810000002580#48 with sched := busyLine }
    s.seq = .idle ∧ s.loop = .quiet ∧ s.host = .bus 0x810000002580#48 :: [] ∧
      decode 0x810000002580#48 = .ok (.openDev 9600#32) ∧ (baudDiv s.cfg.clk 9600#32).accept = true ∧
      s.sched = busyLine ∧ noReset busyLine = true ∧ fgTurns busyLine = 10 ∧
      busyLine.getLast? = some .fg := by decide
theorem wit_CloseStepsInOrder :
    two.seq = .idle ∧ two.loop = .quiet ∧ closing.seq = .closing .k2 ∧
      ({ closing with seq := .closing .k3 } : State).seq = .closing .k3 := by decide
theorem wit_CloseCompletesUnderAnyInterleaving :
    let s : State := { issuing 0x810400000000#48 with sched := .fg :: [.lineRx 1#8, .fg, .disp, .fg] }
    s.seq = .idle ∧ s.loop = .quiet ∧ s.host = .bus 0x810400000000#48 :: [] ∧
      decode 0x810400000000#48 = .ok .closeDev ∧
      s.sched = .fg :: [.lineRx 1#8, .fg, .disp, .fg] ∧
      noReset [.lineRx 1#8, .fg, .disp, .fg] = true ∧ fgTurns [.lineRx 1#8, .fg, .disp, .fg] = 2 ∧
      [Turn.lineRx 1#8, .fg, .disp, .fg].getLast? = some .fg := by decide

theorem wit_DataOperationsIgnoreLifecycle :
    (∃ t, exec (.readInto [0#8] 1) two = .next t) ∧ two.baudRate ≠ 0#32 := ⟨⟨_, rfl⟩, by decide⟩
/-- The first and the last rate accepted at 24 MHz, and the rates beside them. -/
theorem wit_DataOperationsIgnoreLifecycle_open :
    (baudDiv two.cfg.clk 23#32).accept = true ∧ (baudDiv two.cfg.clk 1500000#32).accept = true ∧
      (baudDiv two.cfg.clk 22#32).accept = false ∧ (baudDiv two.cfg.clk 1500001#32).accept = false := by
  decide
theorem wit_AvailableAnswersCount : full.seq = .idle ∧ full.loop = .quiet := by decide
theorem wit_WriteBufStarts :
    live.seq = .idle ∧ live.loop = .quiet ∧ [0x68#8, 0x69#8] = 0x68#8 :: [0x69#8] ∧
      [0x69#8] ≠ [] := by decide
/-- A later iteration, with more to come and with the last byte. -/
theorem wit_WriteBufStarts_later :
    let s : State := { live with loop := .writeBuf [0x69#8, 0x6A#8] 3 }
    let u : State := { live with loop := .writeBuf [0x6A#8] 3 }
    s.seq = .idle ∧ s.loop = .writeBuf (0x69#8 :: [0x6A#8]) 3 ∧ [0x6A#8] ≠ [] ∧
      u.loop = .writeBuf (0x6A#8 :: []) 3 := by decide
theorem wit_StubOperations : sending.seq = .idle ∧ sending.loop = .quiet := by decide
theorem wit_ObservationReadsAnswer : two.seq = .idle ∧ two.loop = .quiet := by decide
/-- RXFULL at 1, and RXMIS at 1 with the buffer short of full. -/
theorem wit_StatusBits :
    full.seq = .idle ∧ full.loop = .quiet ∧ full.count.toNat = full.cfg.n ∧ pending.rxHold ≠ none ∧
      pending.imsc.getLsbD 4 = true ∧ pending.count.toNat ≠ pending.cfg.n := by decide
theorem wit_ResetIsSound : Config.example24MHz.wf ∧
    ({ Config.example24MHz with clk := 4294967295, n := 1, irq := 0 } : Config).wf := by decide
/-- Both sides of IS_OPEN. -/
theorem wit_IsOpenAnswers :
    State.reset.baudRate = 0#32 ∧ State.reset.seq = .idle ∧ State.reset.loop = .quiet ∧
      two.baudRate ≠ 0#32 := by decide

theorem wit_LifecycleChangesOnlyByOpenAndClose_close :
    ∃ t, step closing = .next t ∧ t.baudRate ≠ closing.baudRate := ⟨_, rfl, by decide⟩
theorem wit_LifecycleChangesOnlyByOpenAndClose_open :
    ∃ t, step { State.reset with seq := .opening .o11 9600#32 156#16 16#6 } = .next t ∧
      t.baudRate ≠ State.reset.baudRate := ⟨_, rfl, by decide⟩
theorem wit_LifecycleChangesOnlyByOpenAndClose_reject :
    ∃ t, step (issuing 0x810000000001#48) = .next t ∧ t.baudRate ≠ two.baudRate :=
  ⟨_, rfl, by decide⟩
theorem wit_LifecycleChangesOnlyByOpenAndClose_reset :
    ∃ t, step { two with sched := [.reset] } = .next t ∧ t.baudRate ≠ two.baudRate :=
  ⟨_, rfl, by decide⟩

theorem wit_ReceiveStoresOrDrops_empty : live.cfg.wf ∧ live.count.toNat < live.cfg.n := by decide
theorem wit_ReceiveStoresOrDrops_last :
    let s : State := { live with hc := 0x00020003#32 }
    s.cfg.wf ∧ s.count.toNat < s.cfg.n ∧ s.count.toNat + 1 = s.cfg.n := by decide
theorem wit_ReceiveStoresOrDrops_full :
    full.cfg.wf ∧ full.count.toNat = full.cfg.n ∧
      ({ full with overrunCount := 0xFFFFFFFF#32 } : State).count.toNat = full.cfg.n := by decide
theorem wit_ReadDequeuesByte :
    two.seq = .idle ∧ two.loop = .quiet ∧ two.cfg.wf ∧ two.count ≠ 0#16 ∧
      two.head.toNat < two.cfg.n ∧ two.buf.read two.head.toNat = some 0x41#8 := by decide
theorem wit_ReadDequeuesByte_empty :
    live.seq = .idle ∧ live.loop = .quiet ∧ live.cfg.wf ∧ live.count = 0#16 := by decide
/-- No byte asked for, and none there. -/
theorem wit_ReadIntoStarts_ends :
    live.seq = .idle ∧ live.loop = .quiet ∧ live.cfg.wf ∧ 0 ≤ ([] : List Byte).length ∧
      live.head.toNat < live.cfg.n ∧ 1 ≤ [0#8].length ∧ live.count = 0#16 := by decide
/-- One byte asked for, and two. -/
theorem wit_ReadIntoStarts_takes :
    two.seq = .idle ∧ two.loop = .quiet ∧ two.cfg.wf ∧ 1 ≤ [0#8, 0#8].length ∧ 2 ≤ [0#8, 0#8].length ∧
      two.head.toNat < two.cfg.n ∧ two.count ≠ 0#16 ∧
      two.buf.read two.head.toNat = some 0x41#8 := by decide
/-- A later iteration, with more to come, for the last byte, and with none there. -/
theorem wit_ReadIntoStarts_later :
    let s : State := { two with loop := .readInto [0x40#8, 0#8, 0#8] 3 1 }
    let u : State := { two with loop := .readInto [0x40#8, 0#8] 2 1 }
    let v : State := { live with loop := .readInto [0x40#8, 0#8] 2 1 }
    s.seq = .idle ∧ s.cfg.wf ∧ s.head.toNat < s.cfg.n ∧ s.loop = .readInto [0x40#8, 0#8, 0#8] 3 1 ∧
      1 < 3 ∧ s.count ≠ 0#16 ∧ s.buf.read s.head.toNat = some 0x41#8 ∧ 1 + 1 < 3 ∧
      u.loop = .readInto [0x40#8, 0#8] 2 1 ∧ 1 + 1 = 2 ∧
      v.loop = .readInto [0x40#8, 0#8] 2 1 ∧ v.head.toNat < v.cfg.n ∧ v.count = 0#16 := by decide
theorem wit_ReadIntoNeedsRoom :
    two.seq = .idle ∧ two.loop = .quiet ∧ [0#8].length < 2 := by decide
theorem wit_ReadIntoDrainsQuietLine :
    let s : State := { two with host := [.readInto [0#8, 0#8, 0#8] 3] }
    Sound s ∧ s.seq = .idle ∧ s.loop = .quiet ∧ s.sched = [] ∧
      s.host = .readInto [0#8, 0#8, 0#8] 3 :: [] ∧ 3 ≤ [0#8, 0#8, 0#8].length ∧ 0 < 3 ∧
      s.window = [0x41#8, 0x42#8].map some := ⟨sound_of rfl rfl (by decide), by decide⟩
theorem wit_CapacityIsExactlyN :
    live.cfg.wf ∧ live.count = 0#16 ∧ [0xA0#8, 0xA1#8, 0xA2#8, 0xA3#8].length = live.cfg.n := by decide
theorem wit_OnlyReceiveWritesSlots :
    (∀ b, Instr.read ≠ .receive b) ∧ Instr.read ≠ .dispatch ∧ ∃ t, exec .read two = .next t :=
  ⟨(fun _ h => nomatch h), (fun h => nomatch h), _, rfl⟩

theorem wit_WriteCases :
    live.cr.getLsbD 0 = true ∧ live.cr.getLsbD 8 = true ∧ live.txHold = none ∧
      sending.cr.getLsbD 0 = true ∧ sending.cr.getLsbD 8 = true ∧ sending.txHold = some 0x41#8 ∧
      State.reset.cr.getLsbD 0 = false ∧
      ({ live with cr := 0x0201#16 } : State).cr.getLsbD 8 = false := by decide
theorem wit_WriteBufWithoutPollingCorrupts :
    let s : State := { live with host := [.writeBuf [0x68#8, 0x69#8]] }
    s.seq = .idle ∧ s.loop = .quiet ∧ s.sched = [] ∧ s.host = .writeBuf [0x68#8, 0x69#8] :: [] ∧
      [0x68#8, 0x69#8] ≠ [] ∧ 2 ≤ [0x68#8, 0x69#8].length ∧ s.cr.getLsbD 0 = true ∧
      s.cr.getLsbD 8 = true := by decide
theorem wit_StepKeepsTransmitFaithful :
    TxFaithful { sending with sched := [.lineTx] } ∧
      ∃ t, step { sending with sched := [.lineTx] } = .next t := ⟨fun _ => rfl, _, rfl⟩

theorem wit_BindingCalls : 12 = two.cfg.irq ∧ 11 ≠ two.cfg.irq := by decide

theorem wit_DeliverCases :
    two.cr.getLsbD 0 = true ∧ two.cr.getLsbD 9 = true ∧ two.rxHold = none ∧
      pending.cr.getLsbD 0 = true ∧ pending.cr.getLsbD 9 = true ∧ pending.rxHold = some 0x43#8 ∧
      State.reset.cr.getLsbD 0 = false ∧
      ({ live with cr := 0x0101#16 } : State).cr.getLsbD 9 = false := by decide
theorem wit_DispatchEnabledExactly :
    pending.rxHold ≠ none ∧ pending.imsc.getLsbD 4 = true ∧ pending.vicEnabled = true ∧
      pending.vicHandler = some pending.cfg.rxcb := by decide
theorem wit_EmitMovesByteToWire :
    sending.txHold = some 0x41#8 ∧ sending.cr.getLsbD 0 = true ∧ sending.cr.getLsbD 8 = true := by decide
theorem wit_DisabledAgentsHaveNoStep :
    (¬ ∃ t, exec .dispatch two = .next t) ∧ ¬ ∃ t, exec .txEmit two = .next t :=
  ⟨(fun ⟨_, h⟩ => nomatch h), (fun ⟨_, h⟩ => nomatch h)⟩
theorem wit_PolledWriteIsSafe :
    two.statusWord.getLsbD 3 = false ∧ two.seq = .idle ∧ two.loop = .quiet ∧ TxFaithful two :=
  ⟨by decide, rfl, rfl, fun _ => rfl⟩
theorem wit_PolledWriteIsSafe_between :
    let s : State := { two with sched := [.lineRx 0x43#8] }
    s.statusWord.getLsbD 3 = false ∧ (∃ t, step s = .next t) ∧ s.nextTurn.1 ≠ .fg :=
  ⟨by decide, ⟨_, rfl⟩, by decide⟩
theorem wit_WrittenFormsRoundTrip :
    writtenForm (.regRead .dr) = some 0x000000000000#48 ∧
      writtenForm (.setBits .imsc 0x10#32) = some 0x403800000010#48 ∧
      writtenForm (.writeHard .ibrd 13#32) = some 0x80240000000D#48 := by decide
theorem wit_DispatchMovesByte :
    pending.cfg.wf ∧ pending.rxHold = some 0x43#8 ∧ pending.imsc.getLsbD 4 = true ∧
      pending.vicEnabled = true ∧ pending.vicHandler = some pending.cfg.rxcb ∧
      pending.count.toNat < pending.cfg.n ∧
      ({ full with rxHold := some 0x43#8 } : State).count.toNat = full.cfg.n := by decide
theorem wit_StepKeepsReceiveOrder :
    RxOrdered { pending with sched := [.disp] } ∧
      ∃ t, step { pending with sched := [.disp] } = .next t := ⟨rfl, _, rfl⟩
theorem wit_OnlyForegroundConsumes :
    let s : State := { pending with sched := [.disp] }
    Sound s ∧ (∃ t, step s = .next t) ∧ s.nextTurn.1 ≠ .fg ∧ s.nextTurn.1 ≠ .reset :=
  ⟨sound_of rfl rfl (by decide), ⟨_, rfl⟩, by decide, by decide⟩
theorem wit_DisabledLineReceivesNothing :
    let s : State := { pending with vicEnabled := false, sched := [.disp] }
    s.vicEnabled = false ∧ (∃ t, step s = .next t) ∧ s.nextTurn.1 ≠ .reset ∧
      s.rxHold = some 0x43#8 := ⟨rfl, ⟨_, rfl⟩, by decide, rfl⟩

theorem wit_RegReadCases :
    pending.rxHold = some 0x43#8 ∧ two.rxHold = none ∧ live.count = 0#16 ∧ two.cfg.wf ∧
      two.count ≠ 0#16 ∧ two.head.toNat < two.cfg.n ∧
      two.buf.read two.head.toNat = some 0x41#8 := by decide
theorem wit_SetBitsOrsMask : Reg.stored .dr = false ∧ Reg.stored .rxpop = false := by decide
/-- 40_register_primitives R123 corner case: writing a register whose read pops a byte pops none. -/
theorem test_writeHard_rxpop :
    (after (exec (.writeHard .rxpop 0xFFFFFFFF#32) two)) = some two := by decide

theorem wit_ResetValues :
    State.reset = State.resetWith Config.example24MHz ∧ Config.example24MHz.wf := by decide
theorem wit_ResetValues_bounds :
    ({ Config.example24MHz with clk := 1, n := 65535, base := 0, irq := 31 } : Config).wf := by decide
theorem wit_ResetEventAbandonsOperation :
    ({ reopening with sched := [.reset] } : State).sched = .reset :: [] := rfl
theorem wit_StepKeepsSound : Sound reopening ∧ ∃ t, step reopening = .next t :=
  ⟨sound_reopening, _, rfl⟩
theorem wit_StepKeepsFifo :
    Sound (issuing 0x011000000000#48) ∧ Fifo (issuing 0x011000000000#48) ∧
      ∃ t, step (issuing 0x011000000000#48) = .next t :=
  ⟨sound_of rfl rfl (by decide), ⟨by decide, List.Sublist.refl _⟩, _, rfl⟩
theorem wit_StepKeepsProgrammed :
    Sound reopening ∧ Programmed reopening ∧ ∃ t, step reopening = .next t :=
  ⟨sound_reopening,
    { progress := by intro k r i f e; cases e; decide
      divisors := fun _ h => absurd rfl (h .o7 115200#32 13#16 1#6)
      configured := fun _ => by decide }, _, rfl⟩
theorem wit_AdmittedProgramNeverStops :
    let s : State := { two with host := [.bus 0x011000000000#48, .access .writeHard 0x101F1100 9600#32,
                                         .readInto [0#8] 1] }
    Sound s ∧ s.programAdmitted = true := ⟨sound_of rfl rfl (by decide), by decide⟩
theorem wit_LineRegistersHaveOneOwner :
    (∃ t, step two = .next t) ∧ two.nextTurn.1 ≠ .reset ∧ ∀ k r i f, two.seq ≠ .opening k r i f :=
  ⟨⟨_, rfl⟩, by decide, fun _ _ _ _ h => nomatch h⟩
theorem wit_LineRegistersHaveOneOwner_dispatch :
    let s : State := { reopening with sched := [.disp] }
    (∃ t, step s = .next t) ∧ s.nextTurn.1 ≠ .reset ∧ s.nextTurn.1 ≠ .fg :=
  ⟨⟨_, rfl⟩, by decide, by decide⟩
theorem wit_OnlyResetClears :
    let s : State := { two with txCorrupt := true, lineOverrun := true, overrunCount := 0xFFFFFFFF#32 }
    (∃ t, step s = .next t) ∧ s.nextTurn.1 ≠ .reset ∧ s.txCorrupt = true ∧ s.lineOverrun = true ∧
      s.vicHandler.isSome = true := ⟨⟨_, rfl⟩, by decide, rfl, rfl, rfl⟩
theorem wit_BusyForegroundRefusesOperations :
    closing.fgFree = false ∧ encode .read = some 0x011000000000#48 := by decide
theorem wit_BusyForegroundRefusesOperations_loop :
    ({ two with loop := .readInto [0#8, 0#8] 2 1 } : State).fgFree = false := by decide

end Sys2Proof.Tests
end

section
/-! Primitives at an address: which transaction word an access at an address of the window is, and that an
access outside it is none (00_scope R10, 20_memory R61, 30_encoding R91, R112). -/

namespace Sys2Proof.Machine

theorem busTransaction_base_add (c : Config) (k : Kind) (off : BitVec 12) (d : Word) :
    busTransaction c k (c.base + off.toNat) d = some (packTxn k.code off d) := by
  rw [busTransaction, windowOffset_base_add, Option.map_some]

theorem busTransaction_outside {c : Config} {addr : Nat} (k : Kind) (d : Word)
    (h : addr < c.base ∨ c.base + 0xFFF < addr) : busTransaction c k addr d = none := by
  rw [busTransaction, windowOffset_outside h, Option.map_none]

/-- Settles O6: a register's address is `BASE + OFF` for its own offset, so both clauses on the inside of
the window are the one fact about `BASE + OFF`. -/
theorem addressedAccessIsTransaction : Obligations.AddressedAccessIsTransaction := by
  intro c k d
  refine ⟨fun r => ⟨rfl, ?_⟩, fun off => ?_, fun addr outside => ?_⟩
  · exact busTransaction_base_add c k r.offset d
  · exact busTransaction_base_add c k off d
  · exact busTransaction_outside k d outside

end Sys2Proof.Machine
end

section
/-! Frames: what READ and WRITE leave as it was. -/

namespace Sys2Proof.Machine

/-- READ touches the pointer word, the answer and the records of what was drawn and returned. -/
theorem State.dequeue_frame {s t : State} {w : Word} (h : s.dequeue = some (w, t)) :
    ∃ hc a d r, t = { s with hc := hc, answer := a, draws := d, returned := r } := by
  rcases State.dequeue_cases h with ⟨-, -, rfl⟩ | ⟨-, -, b, d, -, -, rfl⟩
  · exact ⟨_, _, _, _, rfl⟩
  · exact ⟨_, _, _, _, rfl⟩

theorem readPop_buf {s t : State} (h : readPop s = .next t) : t.buf = s.buf := by
  unfold readPop at h
  split at h
  · rename_i hd
    cases h
    obtain ⟨_, _, _, _, rfl⟩ := State.dequeue_frame hd
    rfl
  · cases h

/-- WRITE touches the transmit side and `last_result`, and does not clear `tx_corrupt`. -/
theorem State.transmit_frame (s : State) (b : Byte) : ∃ c x d q, (s.txCorrupt = true → c = true) ∧
    s.transmit b = { s with
      lastResult := 1#32, txCorrupt := c, txHold := x, draws := d, txSeq := q } := by
  rcases s.transmit_cases b with ⟨-, h⟩ | ⟨-, -, h⟩ | ⟨-, -, x, h⟩ <;> rw [h]
  · exact ⟨_, _, _, _, id, rfl⟩
  · exact ⟨_, _, _, _, id, rfl⟩
  · exact ⟨_, _, _, _, fun _ => rfl, rfl⟩

end Sys2Proof.Machine
end

section
/-! The structural invariant, kept by every step (10_state R27, R33, R36 to R38). -/

namespace Sys2Proof.Machine

theorem capacity_of_wf {c : Config} (h : c.wf) : 1 ≤ c.n ∧ c.n ≤ 65535 := by
  obtain ⟨-, -, hpos, hmax, -⟩ := h
  exact ⟨hpos, hmax⟩

theorem State.resetWith_head (c : Config) : (State.resetWith c).head = 0#16 := packHc_head 0#16 0#16

theorem State.resetWith_count (c : Config) : (State.resetWith c).count = 0#16 :=
  packHc_count 0#16 0#16

/-! ## What a change of one part needs -/

/-- The sequencer moves on inside OPEN, its latched values kept. -/
theorem Sound.nextOpenStep {s : State} (hs : Sound s) {k : OpenStep} {r : Word} {i : BitVec 16}
    {f : BitVec 6} (hk : s.seq = .opening k r i f) (k' : OpenStep) :
    Sound { s with seq := .opening k' r i f } :=
  { hs with
    oneOperation := .inr (hs.oneOperation.resolve_left (by simp [hk]))
    openLatched := by rintro _ _ _ _ ⟨⟩; exact hs.openLatched _ _ _ _ hk
    closingDisarmed := nofun }

/-- The sequencer's operation returns. -/
theorem Sound.idleSeq {s : State} (hs : Sound s) : Sound { s with seq := .idle } :=
  { hs with oneOperation := .inl rfl, openLatched := nofun, closingDisarmed := nofun }

/-- No loop of the host's is in progress. -/
theorem Sound.quietLoop {s : State} (hs : Sound s) : Sound { s with loop := .quiet } :=
  { hs with oneOperation := .inr rfl, loopRoom := nofun }

/-- The controller's enable bit is free while no CLOSE is in progress. -/
theorem Sound.setLine {s : State} (hs : Sound s) (hc : ∀ k, s.seq ≠ .closing k) (b : Bool) :
    Sound { s with vicEnabled := b } :=
  { hs with closingDisarmed := fun k hk => absurd hk (hc k) }

/-- The pointer word may be any that names slots of the buffer, the live ones written. -/
theorem Sound.setPtrs {s : State} (hs : Sound s) {h c : BitVec 16} (hh : h.toNat < s.cfg.n)
    (hc : c.toNat ≤ s.cfg.n)
    (live : ∀ i < c.toNat, (s.buf.read ((h.toNat + i) % s.cfg.n)).isSome = true) :
    Sound (s.setPtrs h c) :=
  { hs with
    headLt := by rwa [State.setPtrs_head]
    countLe := by rwa [State.setPtrs_count]
    liveWritten := by rwa [State.setPtrs_head, State.setPtrs_count] }

/-- A byte may be written to any slot: the live ones stay written. -/
theorem Sound.writeSlot {s : State} (hs : Sound s) {a : Nat} (ha : a < s.cfg.n) (b : Byte) :
    Sound { s with buf := s.buf.write a b } :=
  { hs with
    bufOk := Memory.wf_write _ _ _ hs.bufOk
    slotsOk := fun c hmem => by
      rcases Memory.mem_write hmem with h | h
      · rw [h]; exact ha
      · exact hs.slotsOk c h
    liveWritten := fun i hi => by
      show ((s.buf.write a b).read ((s.head.toNat + i) % s.cfg.n)).isSome = true
      by_cases hslot : (s.head.toNat + i) % s.cfg.n = a
      · rw [hslot, Memory.read_write_same]; rfl
      · rw [Memory.read_write_other _ _ hslot]; exact hs.liveWritten i hi }

/-- Emptying the ring leaves no slot live. -/
theorem Sound.emptyRing {s : State} (hs : Sound s) : Sound s.emptyRing :=
  { hs.setPtrs (h := 0#16) (c := 0#16) (capacity_of_wf hs.cfgOk).1 (Nat.zero_le _)
      (fun _ hi => absurd hi (Nat.not_lt_zero _)) with }

/-- READ of a byte: the live window loses its oldest slot. -/
theorem Sound.popPtrs {s : State} (hs : Sound s) (hc : s.count ≠ 0#16) :
    Sound (s.setPtrs s.nextHead (s.count - 1#16)) := by
  obtain ⟨hn1, hn⟩ := capacity_of_wf hs.cfgOk
  have hpred := State.count_pred hc
  have hnext := s.nextHead_toNat hn1 hn
  have hle := hs.countLe
  refine hs.setPtrs (by rw [hnext]; exact Nat.mod_lt _ hn1) (by omega) fun i hi => ?_
  have hslot : (s.nextHead.toNat + i) % s.cfg.n = (s.head.toNat + (i + 1)) % s.cfg.n := by
    rw [hnext, Nat.mod_add_mod, Nat.add_assoc, Nat.add_comm 1 i]
  rw [hslot]
  exact hs.liveWritten (i + 1) (by omega)

/-- RECEIVE with room: the live window gains the slot written. -/
theorem Sound.pushByte {s : State} (hs : Sound s) (hc : s.count.toNat ≠ s.cfg.n) (b : Byte) :
    Sound (State.setPtrs { s with buf := s.buf.write s.tailSlot b } s.head (s.count + 1#16)) := by
  obtain ⟨hn1, hn⟩ := capacity_of_wf hs.cfgOk
  have hlt : s.count.toNat < s.cfg.n := Nat.lt_of_le_of_ne hs.countLe hc
  have hsucc := State.count_succ hlt hn
  have hw := hs.writeSlot (a := s.tailSlot) (Nat.mod_lt _ hn1) b
  refine hw.setPtrs hs.headLt (by rw [hsucc]; exact hlt) fun i hi => ?_
  rcases Nat.lt_succ_iff_lt_or_eq.1 (hsucc ▸ hi) with hold | rfl
  · exact hw.liveWritten i hold
  · show ((s.buf.write s.tailSlot b).read s.tailSlot).isSome = true
    rw [Memory.read_write_same]; rfl

/-- The state after reset, the parameters in range. -/
theorem Sound.resetWith {c : Config} (hc : c.wf) : Sound (State.resetWith c) where
  cfgOk := hc
  countLe := Nat.zero_le _
  headLt := by rw [State.resetWith_head]; exact (capacity_of_wf hc).1
  bufOk := rfl
  slotsOk := nofun
  liveWritten := fun _ hi => absurd hi (Nat.not_lt_zero _)
  lcrhVal := .inl rfl
  crVal := .inl rfl
  imscVal := .inl rfl
  oneOperation := .inl rfl
  openLatched := nofun
  closingDisarmed := nofun
  loopRoom := nofun

/-! ## The moves -/

theorem Sound.openMicro {s : State} (hs : Sound s) {k : OpenStep} {r : Word} {i : BitVec 16}
    {f : BitVec 6} (hk : s.seq = .opening k r i f) : Sound (s.openMicro k r i f) := by
  have advance := hs.nextOpenStep hk
  cases k with
  | o3 => rw [State.openMicro_o3]; exact { advance .o4 with }
  | o4 => rw [State.openMicro_o4]; exact { advance .o5 with }
  | o5 => rw [State.openMicro_o5]; exact { advance .o6 with lcrhVal := .inr rfl }
  | o6 => rw [State.openMicro_o6]; exact { advance .o7 with crVal := .inr rfl }
  | o7 =>
    rw [State.openMicro_o7]
    have himsc : s.imsc ||| 0x010#11 = 0x010#11 := by
      rcases hs.imscVal with h | h <;> rw [h] <;> rfl
    exact { advance .o8 with imscVal := .inr himsc }
  | o8 => rw [State.openMicro_o8]; exact (advance .o9).setLine nofun true
  | o9 => rw [State.openMicro_o9]; exact { advance .o10 with }
  | o10 => rw [State.openMicro_o10]; exact { (advance .o11).emptyRing with }
  | o11 => rw [State.openMicro_o11]; exact { hs.idleSeq with }

theorem Sound.closeMicro {s : State} (hs : Sound s) {k : CloseStep} (hk : s.seq = .closing k) :
    Sound (s.closeMicro k) := by
  cases k with
  | k2 =>
    rw [State.closeMicro_k2]
    exact { hs with
      oneOperation := .inr (hs.oneOperation.resolve_left (by simp [hk]))
      openLatched := nofun
      closingDisarmed := fun _ _ => hs.closingDisarmed _ hk }
  | k3 => rw [State.closeMicro_k3]; exact { hs.emptyRing.idleSeq with }

theorem Sound.dequeue {s t : State} (hs : Sound s) {w : Word} (h : s.dequeue = some (w, t)) :
    Sound t := by
  rcases State.dequeue_cases h with ⟨-, -, rfl⟩ | ⟨hc, -, b, d, -, -, rfl⟩
  · exact { hs with }
  · exact { hs.popPtrs hc with }

theorem Sound.transmit {s : State} (hs : Sound s) (b : Byte) : Sound (s.transmit b) := by
  obtain ⟨c, x, d, q, -, h⟩ := s.transmit_frame b
  rw [h]
  exact { hs with }

theorem Sound.deliver {s : State} (hs : Sound s) (h : s.dispatchEnabled = true) :
    Sound s.deliver := by
  obtain ⟨b, -, ⟨-, e⟩ | ⟨hc, e⟩⟩ := State.deliver_cases h <;> rw [e]
  · exact { hs with }
  · exact { hs.pushByte hc b with }

/-- Every move of the foreground keeps the structural invariant. -/
theorem Sound.fgMove {s t : State} (hs : Sound s) (h : FgMove s t) : Sound t := by
  cases h with
  | openMicro k r i f hk => exact hs.openMicro hk
  | closeMicro k hk => exact hs.closeMicro hk
  | stay => exact hs
  | answer hq a => exact { hs.quietLoop with }
  | latchZero hq => exact { hs with }
  | openAccept hq hl r ha =>
    exact { hs with
      oneOperation := .inr hl
      openLatched := by rintro _ _ _ _ ⟨⟩; rw [← ha]
      closingDisarmed := nofun }
  | openReject hq hl r ha => exact { hs with }
  | close hq hl =>
    exact { hs with
      oneOperation := .inr hl, openLatched := nofun, closingDisarmed := fun _ _ => rfl }
  | pop hq w u hd l a hl =>
    have hseq : u.seq = .idle := by obtain ⟨_, _, _, _, rfl⟩ := State.dequeue_frame hd; exact hq
    refine { hs.dequeue hd with oneOperation := .inl hseq, loopRoom := ?_ }
    intro _ _ _ e
    rcases hl with rfl | ⟨out, max, n, b, hl, hroom, rfl⟩ <;> cases e
    rw [List.length_set]
    rcases hl with hl | ⟨-, -, hle⟩
    · exact ⟨hroom, (hs.loopRoom _ _ _ hl).2⟩
    · exact ⟨hroom, hle⟩
  | transmit hq b l a hl =>
    have hseq : (s.transmit b).seq = .idle := by
      obtain ⟨_, _, _, _, -, e⟩ := s.transmit_frame b; rw [e]; exact hq
    refine { hs.transmit b with oneOperation := .inl hseq, loopRoom := ?_ }
    intro _ _ _ e
    rcases hl with rfl | ⟨rest, len, rfl⟩ <;> cases e
  | lineOn hq irq =>
    rcases s.lineOn_cases irq with e | e <;> rw [e]
    · exact hs
    · exact hs.setLine (by simp [hq]) true
  | lineOff hq irq =>
    rcases s.lineOff_cases irq with e | e <;> rw [e]
    · exact hs
    · exact hs.setLine (by simp [hq]) false
  | bindLine hq irq g =>
    rcases s.bindLine_cases irq g with e | e <;> rw [e]
    · exact hs
    · exact { hs with }

/-- Settles O54: move by move; the ring buffer's part is the window's arithmetic of READ and RECEIVE. -/
theorem stepKeepsSound : Obligations.StepKeepsSound := by
  intro s t hs hstep
  have hs' : Sound s.nextTurn.2 := by rw [s.nextTurn_snd]; exact { hs with }
  cases step_cases hstep with
  | fg ht h hi => exact hs'.fgMove h
  | fgIssue ht op ops hq hl hh hi h =>
    have hops : Sound { s.nextTurn.2 with host := ops } := { hs' with }
    exact hops.fgMove h
  | dispatch ht h => exact hs'.deliver h
  | passes ht hr => exact hs'
  | received b ht h => exact { hs' with }
  | overrun b ht => exact { hs' with }
  | emitted b ht h => exact { hs' with }
  | reset ht => exact { Sound.resetWith hs'.cfgOk with }

end Sys2Proof.Machine
end

section
/-! Who writes what: no operation but RECEIVE and DISPATCH writes a slot (10_state R26, R28), no step outside
OPEN's micro-steps and RESET a line-side control register (10_state R28), and only RESET takes back what
lasts (10_state R31, R42, R51). -/

namespace Sys2Proof.Machine

/-- The line-side control registers, together (10_state R34 to R38). -/
def State.lineRegs (s : State) : BitVec 16 × BitVec 6 × BitVec 8 × BitVec 16 × BitVec 11 :=
  (s.ibrd, s.fbrd, s.lcrh, s.cr, s.imsc)

theorem State.lineRegs_eq_iff (s t : State) : t.lineRegs = s.lineRegs ↔
    t.ibrd = s.ibrd ∧ t.fbrd = s.fbrd ∧ t.lcrh = s.lcrh ∧ t.cr = s.cr ∧ t.imsc = s.imsc := by
  simp only [State.lineRegs, Prod.mk.injEq]

/-- What lasts from `s` to `t`: sticky flags set, the overrun counter up to one higher, a handler bound. -/
def Lasting (s t : State) : Prop :=
  (s.txCorrupt = true → t.txCorrupt = true) ∧ (s.lineOverrun = true → t.lineOverrun = true) ∧
  s.overrunCount.toNat ≤ t.overrunCount.toNat ∧ t.overrunCount.toNat ≤ s.overrunCount.toNat + 1 ∧
  (s.vicHandler.isSome = true → t.vicHandler.isSome = true)

theorem Lasting.of_nextTurn {s t : State} (h : Lasting s.nextTurn.2 t) : Lasting s t := by
  rw [s.nextTurn_snd] at h
  exact h

/-! ## The foreground -/

/-- What a move of the foreground keeps. -/
structure FgKeeps (s t : State) : Prop where
  cfg_eq : t.cfg = s.cfg
  buf_eq : t.buf = s.buf
  overrunCount_eq : t.overrunCount = s.overrunCount
  lineOverrun_eq : t.lineOverrun = s.lineOverrun
  txCorrupt_stays : s.txCorrupt = true → t.txCorrupt = true
  vicHandler_stays : s.vicHandler.isSome = true → t.vicHandler.isSome = true
  lineRegs_eq : (∀ k r i f, s.seq ≠ .opening k r i f) → t.lineRegs = s.lineRegs

theorem FgMove.keeps {s t : State} (h : FgMove s t) : FgKeeps s t := by
  cases h with
  | openMicro k r i f hk =>
    have opening {p : Prop} (h : ∀ k r i f, s.seq ≠ .opening k r i f) : p := absurd hk (h k r i f)
    cases k with
    | o3 | o4 | o5 | o6 | o7 | o10 | o11 => exact ⟨rfl, rfl, rfl, rfl, id, id, opening⟩
    | o8 => rw [State.openMicro_o8]; exact ⟨rfl, rfl, rfl, rfl, id, id, opening⟩
    | o9 => rw [State.openMicro_o9]; exact ⟨rfl, rfl, rfl, rfl, id, fun _ => rfl, opening⟩
  | closeMicro k hk => cases k <;> exact ⟨rfl, rfl, rfl, rfl, id, id, fun _ => rfl⟩
  | stay | answer | latchZero | openAccept | openReject | close =>
    exact ⟨rfl, rfl, rfl, rfl, id, id, fun _ => rfl⟩
  | pop hq w u hd l a hl =>
    obtain ⟨_, _, _, _, rfl⟩ := State.dequeue_frame hd
    exact ⟨rfl, rfl, rfl, rfl, id, id, fun _ => rfl⟩
  | transmit hq b l a hl =>
    obtain ⟨_, _, _, _, hc, e⟩ := s.transmit_frame b
    rw [e]
    exact ⟨rfl, rfl, rfl, rfl, hc, id, fun _ => rfl⟩
  | lineOn hq irq =>
    rcases s.lineOn_cases irq with e | e <;> rw [e] <;>
      exact ⟨rfl, rfl, rfl, rfl, id, id, fun _ => rfl⟩
  | lineOff hq irq =>
    rcases s.lineOff_cases irq with e | e <;> rw [e] <;>
      exact ⟨rfl, rfl, rfl, rfl, id, id, fun _ => rfl⟩
  | bindLine hq irq g =>
    rcases s.bindLine_cases irq g with e | e <;> rw [e]
    · exact ⟨rfl, rfl, rfl, rfl, id, id, fun _ => rfl⟩
    · exact ⟨rfl, rfl, rfl, rfl, id, fun _ => rfl, fun _ => rfl⟩

theorem FgKeeps.lasting {s t : State} (h : FgKeeps s t) : Lasting s t :=
  ⟨h.txCorrupt_stays, fun hl => h.lineOverrun_eq.trans hl, by rw [h.overrunCount_eq],
    by rw [h.overrunCount_eq]; exact Nat.le_succ _, h.vicHandler_stays⟩

/-! ## The dispatcher -/

theorem State.deliver_lasting {s : State} (h : s.dispatchEnabled = true) : Lasting s s.deliver := by
  obtain ⟨b, -, ⟨-, e⟩ | ⟨-, e⟩⟩ := State.deliver_cases h <;> rw [e]
  · have hsat := satIncr_toNat s.overrunCount
    have hlt := s.overrunCount.isLt
    exact ⟨id, id, by simp only [hsat]; omega, by simp only [hsat]; omega, id⟩
  · exact ⟨id, id, Nat.le_refl _, Nat.le_succ _, id⟩

theorem State.deliver_cfg {s : State} (h : s.dispatchEnabled = true) : s.deliver.cfg = s.cfg := by
  obtain ⟨b, -, ⟨-, e⟩ | ⟨-, e⟩⟩ := State.deliver_cases h <;> rw [e]

theorem State.deliver_lineRegs {s : State} (h : s.dispatchEnabled = true) :
    s.deliver.lineRegs = s.lineRegs := by
  obtain ⟨b, -, ⟨-, e⟩ | ⟨-, e⟩⟩ := State.deliver_cases h <;> rw [e] <;> rfl

/-! ## The statements -/

/-- A host operation that goes through is a move of the foreground, and a primitive that starts one is that
operation; RX_DELIVER, TX_EMIT and the other primitives write registers and the line's side. -/
theorem exec_buf_eq {i : Instr} {s t : State} (hr : ∀ b, i ≠ .receive b) (hd : i ≠ .dispatch)
    (h : exec i s = .next t) : t.buf = s.buf := by
  cases i with
  | receive b => exact absurd rfl (hr b)
  | dispatch => exact absurd rfl hd
  | openDev | closeDev | rdStatus | available | read | write | flush | addReceiveHandler
  | clearReceiveHandlers | rdPtrs | rdOverrun | rdBaud | rdResult | rdIbrd | rdFbrd | rdLcrh | rdCr
  | rdImsc => exact (exec_bus_move rfl h).keeps.buf_eq
  | isOpen =>
    obtain ⟨hq, -, -⟩ := whenFree_next h
    exact (issue_move (op := .isOpen) hq h).keeps.buf_eq
  | readInto out max =>
    obtain ⟨hq, -, -⟩ := whenFree_next h
    exact (issue_move (op := .readInto out max) hq h).keeps.buf_eq
  | writeBuf bytes =>
    obtain ⟨hq, -, -⟩ := whenFree_next h
    exact (issue_move (op := .writeBuf bytes) hq h).keeps.buf_eq
  | rxDeliver b =>
    simp only [exec, execRxDeliver] at h
    split at h
    · split at h <;> cases h <;> rfl
    · cases h; rfl
  | txEmit =>
    simp only [exec, execTxEmit] at h
    split at h
    · split at h <;> cases h
      rfl
    · cases h
  | regRead r =>
    cases r with
    | dr =>
      cases h
      rcases s.takeRx_cases with ⟨b, -, e⟩ | ⟨-, b, e⟩ <;> rw [e] <;> rfl
    | rxpop => exact readPop_buf h
    | close | flush | rxhadd | rxhclr => cases h
    | ibrd | fbrd | lcrh | cr | imsc | baud | status | fill | ptrs | overrun | result => cases h; rfl
  | setBits r m =>
    cases r with
    | ibrd | fbrd | lcrh | cr | imsc => cases h; rfl
    | dr | baud | close | status | fill | rxpop | flush | rxhadd | rxhclr | ptrs | overrun
    | result => cases h
  | writeHard r v =>
    cases r with
    | ibrd | fbrd | lcrh | cr | imsc => cases h; rfl
    | dr => exact (exec_bus_move (i := .write (dataByte v)) rfl h).keeps.buf_eq
    | baud => exact (exec_bus_move (i := .openDev v) rfl h).keeps.buf_eq
    | close => exact (exec_bus_move (i := .closeDev) rfl h).keeps.buf_eq
    | flush => exact (exec_bus_move (i := .flush) rfl h).keeps.buf_eq
    | rxhadd => exact (exec_bus_move (i := .addReceiveHandler v) rfl h).keeps.buf_eq
    | rxhclr => exact (exec_bus_move (i := .clearReceiveHandlers) rfl h).keeps.buf_eq
    | status | fill | rxpop | ptrs | overrun | result => cases h; rfl
  | enableLine irq => cases h; rcases s.lineOn_cases irq with e | e <;> rw [e]
  | disableLine irq => cases h; rcases s.lineOff_cases irq with e | e <;> rw [e]
  | bindHandler irq g => cases h; rcases s.bindLine_cases irq g with e | e <;> rw [e]

/-- Settles O30: such an operation leaves the whole storage as it was. -/
theorem onlyReceiveWritesSlots : Obligations.OnlyReceiveWritesSlots := by
  intro i s t hr hd h a
  rw [exec_buf_eq hr hd h]

/-- Settles O58: of all moves only OPEN's micro-steps and RESET reach these registers. -/
theorem lineRegistersHaveOneOwner : Obligations.LineRegistersHaveOneOwner := by
  intro s t hstep hreset howner
  rw [← State.lineRegs_eq_iff]
  have hturn : s.nextTurn.2.lineRegs = s.lineRegs := by rw [s.nextTurn_snd]; rfl
  have hopen (ht : s.nextTurn.1 = .fg) : ∀ k r i f, s.nextTurn.2.seq ≠ .opening k r i f := by
    rw [s.nextTurn_snd]
    exact howner.resolve_right (not_not_intro ht)
  cases step_cases hstep with
  | fg ht h hi => exact (h.keeps.lineRegs_eq (hopen ht)).trans hturn
  | fgIssue ht op ops hq hl hh hi h => exact (h.keeps.lineRegs_eq (hopen ht)).trans hturn
  | dispatch ht h => exact (State.deliver_lineRegs h).trans hturn
  | passes | received | overrun | emitted => exact hturn
  | reset ht => exact absurd ht hreset

/-- Settles O59: move by move; the counter rises in a DISPATCH that finds the buffer full. -/
theorem onlyResetClears : Obligations.OnlyResetClears := by
  intro s t hstep
  have hcfg : s.nextTurn.2.cfg = s.cfg := by rw [s.nextTurn_snd]
  have hturn : Lasting s.nextTurn.2 s.nextTurn.2 := ⟨id, id, Nat.le_refl _, Nat.le_succ _, id⟩
  cases step_cases hstep with
  | fg ht h hi => exact ⟨h.keeps.cfg_eq.trans hcfg, fun _ => h.keeps.lasting.of_nextTurn⟩
  | fgIssue ht op ops hq hl hh hi h =>
    exact ⟨h.keeps.cfg_eq.trans hcfg, fun _ => Lasting.of_nextTurn (s := s) h.keeps.lasting⟩
  | dispatch ht h =>
    exact ⟨(State.deliver_cfg h).trans hcfg, fun _ => (State.deliver_lasting h).of_nextTurn⟩
  | overrun b ht =>
    obtain ⟨htx, -, hover⟩ := hturn
    exact ⟨hcfg, fun _ => Lasting.of_nextTurn (s := s) ⟨htx, fun _ => rfl, hover⟩⟩
  | passes | received | emitted => exact ⟨hcfg, fun _ => Lasting.of_nextTurn (s := s) hturn⟩
  | reset ht => exact ⟨hcfg, fun hr => absurd ht hr⟩

end Sys2Proof.Machine
end

section
/-! What a step runs, and what a busy foreground refuses (10_state R20, R33), and the state after reset
(10_state R48). -/

namespace Sys2Proof.Machine

/-- The schedule's next turn is taken. -/
theorem step_turn {s : State} {t : Turn} {rest : List Turn} (h : s.sched = t :: rest) :
    step s = takeTurn t { s with sched := rest } := by
  rw [step, State.nextTurn, h]

/-- An empty schedule is the foreground's turn. -/
theorem step_idleSchedule {s : State} (h : s.sched = []) : step s = stepFG s := by
  rw [step, State.nextTurn, h]
  rfl

/-- A free foreground whose turn it is issues its next operation. -/
theorem step_issue {s : State} {op : HostOp} {ops : List HostOp} {rest : List Turn}
    (hq : s.seq = .idle) (hl : s.loop = .quiet) (hh : s.host = op :: ops)
    (hs : s.sched = .fg :: rest ∨ s.sched = [] ∧ rest = []) :
    step s = issue op { s with host := ops, sched := rest } := by
  rcases hs with hs | ⟨hs, rfl⟩
  · rw [step_turn hs]
    exact stepFG_issue hq hl hh
  · rw [step_idleSchedule hs, stepFG_issue hq hl hh, ← hs]

theorem runWord_of_decode {w : TxnWord} {i : Instr} (h : decode w = .ok i) (s : State) :
    runWord w s = exec i s := by
  rw [runWord, h]

/-- Settles O8: the operation is issued as its word, and the word runs as what it decodes to. -/
theorem stepRunsDecodedTransaction : Obligations.StepRunsDecodedTransaction := by
  intro s op t i ops rest hq hl hh hword hsched hdec
  rw [step_issue hq hl hh hsched, ← runWord_of_decode hdec]
  exact issue_word hword

/-- Settles O9: turn by turn. -/
theorem stepRunsPseudoOperationsAndEvents : Obligations.StepRunsPseudoOperationsAndEvents := by
  intro s ops rest
  refine ⟨step_turn, step_idleSchedule, fun hq hl hs => ?_, fun b => step_turn,
    fun hs he => ?_, fun hs he => ?_, fun hs he => ?_, fun hs he => ?_⟩
  · have issues (op : HostOp) (hh : s.host = op :: ops) :
        step s = issue op { s with host := ops, sched := rest } := step_issue hq hl hh (.inl hs)
    exact ⟨issues _, fun _ _ => issues _, fun _ => issues _, fun _ => issues _, fun _ => issues _,
      fun _ _ => issues _⟩
  · exact (step_turn hs).trans (if_pos he)
  · exact (step_turn hs).trans (if_neg (Bool.eq_false_iff.1 he))
  · exact (step_turn hs).trans (if_pos he)
  · exact (step_turn hs).trans (if_neg (Bool.eq_false_iff.1 he))

/-- With a capacity in range an empty buffer is not a full one. -/
theorem State.resetWith_statusWord {c : Config} (hc : c.wf) :
    (State.resetWith c).statusWord = 0#32 := by
  have hpos : c.n ≠ 0 := Nat.ne_of_gt (capacity_of_wf hc).1
  have hfull : (State.resetWith c).flagRxfull = false := by
    rw [State.flagRxfull, State.resetWith_count]
    exact beq_false_of_ne hpos.symm
  have hempty : (State.resetWith c).flagRxne = false := by
    rw [State.flagRxne, State.resetWith_count]
    rfl
  rw [State.statusWord, hfull, hempty]
  simp [State.irqReq, State.flagRxris, State.flagTxff, State.flagOpen, State.resetWith]

/-- Settles O51: the table row by row. -/
theorem resetValues : Obligations.ResetValues := by
  rintro c _ rfl
  exact ⟨rfl, rfl, State.resetWith_head c, State.resetWith_count c, rfl, rfl, rfl, rfl, rfl, rfl, rfl,
    rfl, rfl, rfl, rfl, rfl, rfl, rfl, rfl, rfl, rfl, rfl, State.resetWith_statusWord⟩

theorem whenFree_of_busy {s : State} (h : s.fgFree = false) (r : Result) :
    whenFree s r = .refused .foregroundBusy := by
  rw [whenFree, h]
  rfl

/-- A BUS operation starts only when the foreground is free. -/
theorem exec_bus_whenFree {i : Instr} (hi : i.isBus = true) (s : State) :
    ∃ r, exec i s = whenFree s r := by
  cases i with
  | openDev | closeDev | rdStatus | available | read | write | flush | addReceiveHandler
  | clearReceiveHandlers | rdPtrs | rdOverrun | rdBaud | rdResult | rdIbrd | rdFbrd | rdLcrh | rdCr
  | rdImsc => exact ⟨_, rfl⟩
  | isOpen | readInto | writeBuf | receive | dispatch | rxDeliver | txEmit | regRead | setBits
  | writeHard | enableLine | disableLine | bindHandler => cases hi

theorem isBus_of_encode {i : Instr} {w : TxnWord} (h : encode i = some w) : i.isBus = true := by
  obtain ⟨p, hp, -⟩ := Option.map_eq_some_iff.1 h
  rw [Instr.isBus, hp]
  rfl

/-- Settles O60: each of these operations starts only when the foreground is free. -/
theorem busyForegroundRefusesOperations : Obligations.BusyForegroundRefusesOperations := by
  rintro s i hbusy (⟨w, hw⟩ | rfl | ⟨out, max, rfl⟩ | ⟨bytes, rfl⟩)
  · obtain ⟨r, hr⟩ := exec_bus_whenFree (isBus_of_encode hw) s
    rw [hr, whenFree_of_busy hbusy]
  · exact whenFree_of_busy hbusy _
  · exact whenFree_of_busy hbusy _
  · exact whenFree_of_busy hbusy _

end Sys2Proof.Machine
end

section
/-! What OPEN has programmed so far, and what an Open device holds, kept by every step (20_memory R73,
41_lifecycle R137, R140). -/

namespace Sys2Proof.Machine

/-- The first `n` parts of what OPEN programs, in its order (41_lifecycle R137), for the divisors it has
latched. -/
def State.Holds (s : State) (n : Nat) (i : BitVec 16) (f : BitVec 6) : Prop :=
  (1 ≤ n → s.ibrd = i) ∧ (2 ≤ n → s.fbrd = f) ∧ (3 ≤ n → s.lcrh = 0x60#8) ∧
  (4 ≤ n → s.cr = 0x0301#16) ∧ (5 ≤ n → s.rxim = true) ∧ (6 ≤ n → s.vicEnabled = true) ∧
  (7 ≤ n → s.vicHandler = some s.cfg.rxcb)

/-- `State.Holds` at the position OPEN has reached is the invariant's clause on an OPEN in progress. -/
theorem Programmed.holds {s : State} (hp : Programmed s) {k : OpenStep} {r : Word} {i : BitVec 16}
    {f : BitVec 6} (hk : s.seq = .opening k r i f) : s.Holds k.done i f :=
  hp.progress k r i f hk

/-- O7 ORs the receive interrupt's mask bit in, so it is set afterwards whatever was there before. -/
theorem rxim_or_imscRxim (m : BitVec 11) : (m ||| 0x010#11).getLsbD 4 = true := by
  rw [BitVec.getLsbD_or]
  exact Bool.or_true _

/-! ## Where the sequencer stands -/

/-- Inside OPEN the invariant asks for what the position says, and of an Open device its configuration. -/
theorem Programmed.ofOpening {t : State} {k : OpenStep} {r : Word} {i : BitVec 16} {f : BitVec 6}
    (hk : t.seq = .opening k r i f) (holds : t.Holds k.done i f)
    (configured : t.baudRate ≠ 0#32 →
      t.lcrh = 0x60#8 ∧ t.cr = 0x0301#16 ∧ t.rxim = true ∧ t.vicHandler.isSome = true) :
    Programmed t where
  progress k' r' i' f' hk' := by
    cases hk.symm.trans hk'
    exact holds
  divisors _ houtside := absurd hk (houtside k r i f)
  configured := configured

/-- A Closed device outside OPEN has nothing to hold. -/
theorem Programmed.ofClosed {t : State} (hb : t.baudRate = 0#32)
    (houtside : ∀ k r i f, t.seq ≠ .opening k r i f) : Programmed t where
  progress k r i f hk := absurd hk (houtside k r i f)
  divisors hopen := absurd hb hopen
  configured hopen := absurd hb hopen

/-- Outside OPEN the sequencer may go anywhere else outside OPEN. -/
theorem Programmed.setSeq {s : State} (hp : Programmed s) (hs : ∀ k r i f, s.seq ≠ .opening k r i f)
    {q : Seq} (hq : ∀ k r i f, q ≠ .opening k r i f) : Programmed { s with seq := q } where
  progress k r i f hk := absurd hk (hq k r i f)
  divisors hopen _ := hp.divisors hopen hs
  configured := hp.configured

/-- Outside OPEN the invariant does not read the controller's enable bit. -/
theorem Programmed.setLine {s : State} (hp : Programmed s) (hs : ∀ k r i f, s.seq ≠ .opening k r i f)
    (b : Bool) : Programmed { s with vicEnabled := b } :=
  { hp with progress := fun k r i f hk => absurd hk (hs k r i f) }

/-- Outside OPEN any handler may be bound (45_binding R203, R208). -/
theorem Programmed.bindHandler {s : State} (hp : Programmed s)
    (hs : ∀ k r i f, s.seq ≠ .opening k r i f) (g : HandlerRef) :
    Programmed { s with vicHandler := some g } where
  progress k r i f hk := absurd hk (hs k r i f)
  divisors := hp.divisors
  configured hopen := by
    obtain ⟨hlcrh, hcr, hrxim, -⟩ := hp.configured hopen
    exact ⟨hlcrh, hcr, hrxim, rfl⟩

theorem Programmed.resetWith (c : Config) : Programmed (State.resetWith c) :=
  .ofClosed rfl nofun

/-! ## The moves -/

/-- Each micro-step of OPEN adds the next part and keeps the ones before; O11 makes the rate that of the
divisors latched (41_lifecycle R137, R140). -/
theorem Programmed.openMicro {s : State} (hp : Programmed s) (hs : Sound s) {k : OpenStep} {r : Word}
    {i : BitVec 16} {f : BitVec 6} (hk : s.seq = .opening k r i f) : Programmed (s.openMicro k r i f) := by
  have holds := hp.holds hk
  have configured := hp.configured
  cases k with
  | o3 =>
    rw [State.openMicro_o3]
    exact .ofOpening rfl (by simp [State.Holds, OpenStep.done]) configured
  | o4 =>
    rw [State.openMicro_o4]
    exact .ofOpening rfl (by simpa [State.Holds, OpenStep.done] using holds) configured
  | o5 =>
    rw [State.openMicro_o5]
    refine .ofOpening rfl (by simpa [State.Holds, OpenStep.done] using holds) fun hopen => ?_
    obtain ⟨-, hothers⟩ := configured hopen
    exact ⟨rfl, hothers⟩
  | o6 =>
    rw [State.openMicro_o6]
    refine .ofOpening rfl (by simpa [State.Holds, OpenStep.done] using holds) fun hopen => ?_
    obtain ⟨hlcrh, -, hothers⟩ := configured hopen
    exact ⟨hlcrh, rfl, hothers⟩
  | o7 =>
    rw [State.openMicro_o7]
    refine .ofOpening rfl (by simpa [State.Holds, OpenStep.done, State.rxim] using holds)
      fun hopen => ?_
    obtain ⟨hlcrh, hcr, -, hhandler⟩ := configured hopen
    exact ⟨hlcrh, hcr, rxim_or_imscRxim s.imsc, hhandler⟩
  | o8 =>
    rw [State.openMicro_o8]
    exact .ofOpening rfl (by simpa [State.Holds, OpenStep.done, State.rxim] using holds) configured
  | o9 =>
    rw [State.openMicro_o9]
    refine .ofOpening rfl (by simpa [State.Holds, OpenStep.done, State.rxim] using holds)
      fun hopen => ?_
    obtain ⟨hlcrh, hcr, hrxim, -⟩ := configured hopen
    exact ⟨hlcrh, hcr, hrxim, rfl⟩
  | o10 =>
    rw [State.openMicro_o10]
    exact .ofOpening rfl (by simpa [State.Holds, OpenStep.done, State.rxim] using holds) configured
  | o11 =>
    rw [State.openMicro_o11]
    have hlatched := hs.openLatched _ _ _ _ hk
    simp only [State.Holds, OpenStep.done, Nat.reduceLeDiff, forall_const] at holds
    obtain ⟨rfl, rfl, hlcrh, hcr, hrxim, -, hhandler⟩ := holds
    exact {
      progress := nofun
      divisors := fun _ _ => hlatched
      configured := fun _ => ⟨hlcrh, hcr, hrxim, Option.isSome_of_eq_some hhandler⟩ }

theorem Programmed.closeMicro {s : State} (hp : Programmed s) {k : CloseStep}
    (hk : s.seq = .closing k) : Programmed (s.closeMicro k) := by
  have houtside : ∀ k r i f, s.seq ≠ .opening k r i f := by simp [hk]
  cases k with
  | k2 => rw [State.closeMicro_k2]; exact .ofClosed rfl nofun
  | k3 => rw [State.closeMicro_k3]; exact { hp.setSeq houtside (q := .idle) nofun with }

theorem Programmed.deliver {s : State} (hp : Programmed s) (h : s.dispatchEnabled = true) :
    Programmed s.deliver := by
  obtain ⟨b, -, ⟨-, e⟩ | ⟨-, e⟩⟩ := State.deliver_cases h <;> rw [e] <;> exact { hp with }

/-- Every move of the foreground keeps what is programmed. -/
theorem Programmed.fgMove {s t : State} (hp : Programmed s) (hs : Sound s) (h : FgMove s t) :
    Programmed t := by
  have outside (hq : s.seq = .idle) : ∀ k r i f, s.seq ≠ .opening k r i f := by simp [hq]
  cases h with
  | openMicro k r i f hk => exact hp.openMicro hs hk
  | closeMicro k hk => exact hp.closeMicro hk
  | stay => exact hp
  | answer | latchZero => exact { hp with }
  | openAccept hq hl r ha =>
    exact .ofOpening rfl (by simp [State.Holds, OpenStep.done]) hp.configured
  | openReject hq hl r ha => exact .ofClosed rfl (outside hq)
  | close hq hl => exact (hp.setLine (outside hq) false).setSeq (outside hq) nofun
  | pop hq w u hd l a hl =>
    obtain ⟨_, _, _, _, rfl⟩ := State.dequeue_frame hd
    exact { hp with }
  | transmit hq b l a hl =>
    obtain ⟨_, _, _, _, -, e⟩ := s.transmit_frame b
    rw [e]
    exact { hp with }
  | lineOn hq irq =>
    rcases s.lineOn_cases irq with e | e <;> rw [e]
    · exact hp
    · exact hp.setLine (outside hq) true
  | lineOff hq irq =>
    rcases s.lineOff_cases irq with e | e <;> rw [e]
    · exact hp
    · exact hp.setLine (outside hq) false
  | bindLine hq irq g =>
    rcases s.bindLine_cases irq g with e | e <;> rw [e]
    · exact hp
    · exact hp.bindHandler (outside hq) g

/-- Settles O56: move by move; OPEN's own micro-steps are the ones that program, and outside OPEN no move
but RESET touches a line-side register. -/
theorem stepKeepsProgrammed : Obligations.StepKeepsProgrammed := by
  intro s t hs hp hstep
  have hs' : Sound s.nextTurn.2 := by rw [s.nextTurn_snd]; exact { hs with }
  have hp' : Programmed s.nextTurn.2 := by rw [s.nextTurn_snd]; exact { hp with }
  cases step_cases hstep with
  | fg ht h hi => exact hp'.fgMove hs' h
  | fgIssue ht op ops hq hl hh hi h =>
    have hsops : Sound { s.nextTurn.2 with host := ops } := { hs' with }
    have hpops : Programmed { s.nextTurn.2 with host := ops } := { hp' with }
    exact hpops.fgMove hsops h
  | dispatch ht h => exact hp'.deliver h
  | passes ht hr => exact hp'
  | received b ht h => exact { hp' with }
  | overrun b ht => exact { hp' with }
  | emitted b ht h => exact { hp' with }
  | reset ht => exact { Programmed.resetWith s.nextTurn.2.cfg with }

end Sys2Proof.Machine
end

section
/-! The decoder and the encoder, one the other's inverse up to ignored bits, and the written form of the
primitives (30_encoding R91 to R103, R109). -/

namespace Sys2Proof

/-! ## A word and its two halves -/

/-- T[47:32] is KIND, RSV and OFF in a row (30_encoding R91). -/
theorem high_eq_fields (t : TxnWord) :
    t.extractLsb' 32 16 = kindField t ++ rsvField t ++ offField t := by
  have hkind : kindField t = (t.extractLsb' 32 16).extractLsb' 14 2 :=
    extractLsb'_high t (a := 14) (by omega)
  have hrsv : rsvField t = (t.extractLsb' 32 16).extractLsb' 12 2 :=
    extractLsb'_high t (a := 12) (by omega)
  have hoff : offField t = (t.extractLsb' 32 16).extractLsb' 0 12 :=
    extractLsb'_high t (a := 0) (by omega)
  rw [hkind, hrsv, hoff]
  generalize t.extractLsb' 32 16 = h
  rw [BitVec.extractLsb'_append_extractLsb'_eq_extractLsb' (by omega : 14 = 12 + 2)]
  exact (Laws.append_extractLsb' (a := 4) (b := 12) h).symm

/-- A word is its two halves. -/
theorem high_append_dataField (t : TxnWord) : t.extractLsb' 32 16 ++ dataField t = t :=
  Laws.append_extractLsb' (a := 16) (b := 32) t

/-- Clearing bits of DATA leaves T[47:32]. -/
theorem and_dataMask (t : TxnWord) (m : Word) :
    t &&& (0xFFFF#16 ++ m) = t.extractLsb' 32 16 ++ (dataField t &&& m) := by
  conv_lhs => rw [← high_append_dataField t, BitVec.and_append]
  exact congrArg (· ++ (dataField t &&& m)) BitVec.and_allOnes

theorem bitVec_append_inj {a b : Nat} {x x' : BitVec a} {y y' : BitVec b} (h : x ++ y = x' ++ y') :
    x = x' ∧ y = y' := by
  constructor
  · rw [← Laws.extractLsb'_append_high x y, h, Laws.extractLsb'_append_high]
  · rw [← Laws.extractLsb'_append_low x y, h, Laws.extractLsb'_append_low]

/-! ## What the decoder accepts -/

/-- A word whose T[47:32] names a pair decodes to what the admitted table has there. -/
theorem decode_ok_iff_admitted {t : TxnWord} {i : Instr} : decode t = .ok i ↔
    ∃ k r, t.extractLsb' 32 16 = Kind.code k ++ 0#2 ++ Reg.offset r ∧
      admitted k r (dataField t) = some i := by
  constructor
  · intro h
    obtain ⟨hrsv, k, r, hkind, hoff, ha⟩ := decode_ok_iff.1 h
    exact ⟨k, r, by rw [high_eq_fields, hkind, hrsv, hoff], ha⟩
  · rintro ⟨k, r, hhigh, ha⟩
    have ht : t = packTxn k.code r.offset (dataField t) := by
      rw [packTxn, ← hhigh, high_append_dataField]
    rw [ht, decode_packTxn, ha]

/-- Masking DATA to its low byte is taking that byte and extending it again. -/
theorem and_lowBits (d : Word) : d &&& 0x000000FF#32 = (d.extractLsb' 0 8).setWidth 32 := by
  have hsplit : d = d.extractLsb' 8 24 ++ d.extractLsb' 0 8 :=
    (Laws.append_extractLsb' (a := 24) (b := 8) d).symm
  have hmask : 0x000000FF#32 = 0#24 ++ BitVec.allOnes 8 := by decide
  calc d &&& 0x000000FF#32
      = (d.extractLsb' 8 24 &&& 0#24) ++ (d.extractLsb' 0 8 &&& BitVec.allOnes 8) := by
        rw [hmask, ← BitVec.and_append, ← hsplit]
    _ = 0#24 ++ d.extractLsb' 0 8 := by rw [BitVec.and_zero, BitVec.and_allOnes]
    _ = (d.extractLsb' 0 8).setWidth 32 := (Laws.setWidth_eq_zero_append _).symm

/-- The admitted table takes an operation's operand from the DATA bits the operation uses, and no other. -/
theorem and_usedDataMask_of_admitted {k : Kind} {r : Reg} {d : Word} {i : Instr}
    (h : admitted k r d = some i) : d &&& usedDataMask i = i.operandData := by
  cases k <;> cases r <;> cases h
  case writeHard.dr.refl => exact and_lowBits d
  case writeHard.baud.refl | writeHard.rxhadd.refl => exact BitVec.and_allOnes
  all_goals exact BitVec.and_zero

/-- An operation with a pattern is in the admitted table at that pattern, for every DATA that holds its
operand. -/
theorem admitted_of_pattern {i : Instr} {p : BitVec 16} {d : Word} (hp : i.pattern = some p)
    (hd : d &&& usedDataMask i = i.operandData) :
    ∃ k r, p = Kind.code k ++ 0#2 ++ Reg.offset r ∧ admitted k r d = some i := by
  cases i <;> cases hp
  case openDev v =>
    obtain rfl : d = v := BitVec.and_allOnes.symm.trans hd
    exact ⟨.writeHard, .baud, rfl, rfl⟩
  case addReceiveHandler cb =>
    obtain rfl : d = cb := BitVec.and_allOnes.symm.trans hd
    exact ⟨.writeHard, .rxhadd, rfl, rfl⟩
  case write b =>
    have hb : d.extractLsb' 0 8 = b := by
      rw [← Laws.setWidth_setWidth_narrow (by omega : 8 ≤ 32) (d.extractLsb' 0 8), ← and_lowBits]
      exact (congrArg _ hd).trans (Laws.setWidth_setWidth_narrow (by omega) b)
    exact ⟨.writeHard, .dr, rfl, congrArg (fun x => some (Instr.write x)) hb⟩
  case closeDev => exact ⟨.writeHard, .close, rfl, rfl⟩
  case rdStatus => exact ⟨.read, .status, rfl, rfl⟩
  case available => exact ⟨.read, .fill, rfl, rfl⟩
  case read => exact ⟨.read, .rxpop, rfl, rfl⟩
  case flush => exact ⟨.writeHard, .flush, rfl, rfl⟩
  case clearReceiveHandlers => exact ⟨.writeHard, .rxhclr, rfl, rfl⟩
  case rdPtrs => exact ⟨.read, .ptrs, rfl, rfl⟩
  case rdOverrun => exact ⟨.read, .overrun, rfl, rfl⟩
  case rdBaud => exact ⟨.read, .baud, rfl, rfl⟩
  case rdResult => exact ⟨.read, .result, rfl, rfl⟩
  case rdIbrd => exact ⟨.read, .ibrd, rfl, rfl⟩
  case rdFbrd => exact ⟨.read, .fbrd, rfl, rfl⟩
  case rdLcrh => exact ⟨.read, .lcrh, rfl, rfl⟩
  case rdCr => exact ⟨.read, .cr, rfl, rfl⟩
  case rdImsc => exact ⟨.read, .imsc, rfl, rfl⟩

/-- The decoder in one line: T[47:32] is the operation's pattern, and the DATA bits the operation takes
hold its operand (30_encoding R98, R102). -/
theorem decode_ok_iff_pattern {t : TxnWord} {i : Instr} : decode t = .ok i ↔
    i.pattern = some (t.extractLsb' 32 16) ∧ dataField t &&& usedDataMask i = i.operandData := by
  rw [decode_ok_iff_admitted]
  constructor
  · rintro ⟨k, r, hhigh, ha⟩
    exact ⟨hhigh ▸ admitted_pattern ha, and_usedDataMask_of_admitted ha⟩
  · rintro ⟨hp, hd⟩
    exact admitted_of_pattern hp hd

/-- An operand fits in the DATA bits its operation takes. -/
theorem operandData_and_usedDataMask (i : Instr) :
    i.operandData &&& usedDataMask i = i.operandData := by
  cases i with
  | openDev v | addReceiveHandler v => exact Laws.and_allBits v
  | write b => exact Laws.byte_and_lowBits b
  | _ => exact Laws.no_bits

theorem encode_eq_some_iff {t : TxnWord} {i : Instr} : encode i = some t ↔
    i.pattern = some (t.extractLsb' 32 16) ∧ dataField t = i.operandData := by
  rw [encode, Option.map_eq_some_iff]
  constructor
  · rintro ⟨p, hp, rfl⟩
    rw [Laws.extractLsb'_append_high]
    exact ⟨hp, Laws.extractLsb'_append_low p _⟩
  · rintro ⟨hp, hd⟩
    exact ⟨_, hp, hd ▸ high_append_dataField t⟩

/-! ## The round trips -/

/-- Settles O2: the encoder puts down the pattern and the operand, and these are what the decoder looks
at. -/
theorem decodeOfEncode : Obligations.DecodeOfEncode := by
  intro i t h
  obtain ⟨hp, hd⟩ := encode_eq_some_iff.1 h
  exact decode_ok_iff_pattern.2 ⟨hp, hd ▸ operandData_and_usedDataMask i⟩

/-- Settles O3: the canonical form keeps T[47:32] and the operand, and clears the rest. -/
theorem encodeOfDecode : Obligations.EncodeOfDecode := by
  intro t i h
  obtain ⟨hp, hd⟩ := decode_ok_iff_pattern.1 h
  have hcanonical : canonicalForm t = t.extractLsb' 32 16 ++ i.operandData := by
    rw [canonicalForm, h, ← hd]
    exact and_dataMask t _
  rw [encode, hp, hcanonical, Option.map_some]

/-- Settles O4: the mask keeps all the decoder looks at. -/
theorem ignoredBitsDoNotMatter : Obligations.IgnoredBitsDoNotMatter := by
  intro t t' i h hagree
  rw [and_dataMask, and_dataMask] at hagree
  obtain ⟨hhigh, hdata⟩ := bitVec_append_inj hagree
  rw [decode_ok_iff_pattern, hhigh, hdata]
  exact decode_ok_iff_pattern.1 h

/-! ## The table of patterns -/

/-- One operation for each pattern, in the order of 30_encoding R98. -/
def busOperations : List Instr :=
  [.write 0#8, .rdIbrd, .rdFbrd, .rdLcrh, .rdCr, .rdImsc, .rdBaud, .openDev 0#32, .closeDev, .rdStatus,
   .available, .read, .flush, .addReceiveHandler 0#32, .clearReceiveHandlers, .rdPtrs, .rdOverrun,
   .rdResult]

/-- An operation's pattern does not depend on its operand, so the list has every pattern there is. -/
theorem pattern_mem_busOperations {i : Instr} {p : BitVec 16} (h : i.pattern = some p) :
    p ∈ busOperations.filterMap Instr.pattern := by
  cases i <;> cases h <;> decide

/-- Whether the table admits a pair does not depend on DATA. -/
theorem admitted_isSome_congr (k : Kind) (r : Reg) (d d' : Word) :
    (admitted k r d).isSome = (admitted k r d').isSome := by
  cases k <;> cases r <;> rfl

/-- A word is an operation when its T[47:32] is some operation's pattern, whatever its DATA. -/
theorem exists_decode_iff_pattern {t : TxnWord} :
    (∃ i, decode t = .ok i) ↔ ∃ i, Instr.pattern i = some (t.extractLsb' 32 16) := by
  constructor
  · rintro ⟨i, h⟩
    exact ⟨i, (decode_ok_iff_pattern.1 h).1⟩
  · rintro ⟨i, hp⟩
    obtain ⟨k, r, hhigh, ha⟩ := admitted_of_pattern hp (operandData_and_usedDataMask i)
    have hadmitted : (admitted k r (dataField t)).isSome := by
      rw [admitted_isSome_congr k r _ i.operandData, ha]
      rfl
    obtain ⟨j, hj⟩ := Option.isSome_iff_exists.1 hadmitted
    exact ⟨j, decode_ok_iff_admitted.2 ⟨k, r, hhigh, hj⟩⟩

/-- Settles O5: the eighteen patterns of the statement are those of the BUS operations. -/
theorem acceptedExactlyByTable : Obligations.AcceptedExactlyByTable := by
  intro t
  change _ ↔ t.extractLsb' 32 16 ∈ busOperations.filterMap Instr.pattern
  rw [exists_decode_iff_pattern]
  constructor
  · rintro ⟨i, hp⟩
    exact pattern_mem_busOperations hp
  · intro h
    obtain ⟨i, -, hp⟩ := List.mem_filterMap.1 h
    exact ⟨i, hp⟩

/-! ## The written form of the primitives -/

/-- The primitive of a kind, on a register, with a value; a read has no value. -/
def Kind.primitive : Kind → Reg → Word → Instr
  | .read, r, _ => .regRead r
  | .setBits, r, d => .setBits r d
  | .writeHard, r, d => .writeHard r d

/-- A written form is the packed word of the primitive's kind, register and value. -/
theorem writtenForm_eq_some {i : Instr} {t : TxnWord} (h : writtenForm i = some t) :
    ∃ k r d, i = Kind.primitive k r d ∧ t = packTxn k.code r.offset d := by
  unfold writtenForm at h
  split at h <;> cases h
  · exact ⟨.read, _, 0#32, rfl, rfl⟩
  · exact ⟨.setBits, _, _, rfl, rfl⟩
  · exact ⟨.writeHard, _, _, rfl, rfl⟩

theorem readWrittenForm_packTxn (k : Kind) (r : Reg) (d : Word) :
    readWrittenForm (packTxn k.code r.offset d) = some (k.primitive r d) := by
  obtain ⟨hrsv, hkind, hoff, hdata⟩ := packTxn_fields k r d
  rw [readWrittenForm, hrsv, hkind, hoff, hdata, kindOf_code, regAt_offset, if_neg (not_not.2 rfl)]
  cases k <;> rfl

/-- The admitted table has no SET_BITS (30_encoding R97). -/
theorem decode_packTxn_setBits (r : Reg) (m : Word) :
    decode (packTxn Kind.setBits.code r.offset m) = .error (.notAdmitted .setBits r) := by
  rw [decode_packTxn]
  rfl

/-- Settles O7: a written form is packed from the primitive's parts, which reading it gives back and the
decoder looks up in the admitted table. -/
theorem writtenFormsRoundTrip : Obligations.WrittenFormsRoundTrip := by
  intro i t h
  constructor
  · obtain ⟨k, r, d, rfl, rfl⟩ := writtenForm_eq_some h
    exact readWrittenForm_packTxn k r d
  · rintro r m rfl
    cases h
    exact decode_packTxn_setBits r m

/-! ## Worked words -/

/-- Settles O1: the decoder run on each word. -/
theorem workedWordsDecode : Obligations.WorkedWordsDecode := by
  refine ⟨?_, ?_, ?_, ?_, ?_, ?_, ?_, ?_, ?_, ?_, ?_, ?_, ?_⟩ <;> decide

end Sys2Proof
end

section
/-! What a step does with a transaction the decoder refuses, and with an access outside the window
(30_encoding R103, 20_memory R61). -/

namespace Sys2Proof.Machine

theorem runWord_of_reject {w : TxnWord} {e : Reject} (h : decode w = .error e) (s : State) :
    runWord w s = .refused (.transaction e) := by
  rw [runWord, h]

theorem issue_access_outside {s : State} {addr : Nat} (k : Kind) (d : Word)
    (h : addr < s.cfg.base ∨ s.cfg.base + 0xFFF < addr) :
    issue (.access k addr d) s = .refused .outsideWindow := by
  simp only [issue, busTransaction_outside k d h]

/-- Settles O10: the free foreground issues the operation, which the decoder or the window refuses. -/
theorem stepRefusesTransaction : Obligations.StepRefusesTransaction := by
  intro s op ops rest hq hl hh hsched
  rw [step_issue hq hl hh hsched]
  constructor
  · intro t e hword hdec
    rw [← runWord_of_reject hdec]
    exact issue_word hword
  · rintro k addr d rfl outside
    exact issue_access_outside k d outside

end Sys2Proof.Machine
end

section
/-! The register primitives on each of the seventeen registers (40_register_primitives R121 to R123). -/

namespace Sys2Proof.Machine

/-! ## The READ transaction -/

/-- The buffer empty (43_ring_buffer R175). -/
theorem readPop_empty {s : State} (h : s.count = 0#16) :
    readPop s = .next { s with answer := .rdata 0#32 } := by
  rw [readPop, State.dequeue, if_pos h]
  rfl

/-- A byte to take (43_ring_buffer R174). -/
theorem readPop_byte {s : State} (hc : s.count ≠ 0#16) (hh : s.head.toNat < s.cfg.n) :
    ∃ b d, (∀ x, s.buf.read s.head.toNat = some x → b = x ∧ d = s.draws) ∧
      readPop s = .next { s with
        hc := packHc s.nextHead (s.count - 1#16), answer := .rdata (validWord b), draws := d,
        returned := s.returned ++ [b] } := by
  obtain ⟨w, t, hd⟩ := State.dequeue_isSome hh
  rcases State.dequeue_cases hd with ⟨hempty, -, -⟩ | ⟨-, -, b, d, -, hb, rfl⟩
  · exact absurd hempty hc
  · exact ⟨b, d, hb, by rw [readPop, hd]⟩

/-- The pointer word READ writes: the head one slot on, the count one lower. -/
theorem State.ptrs_of_pop {s t : State} (hwf : s.cfg.wf) (hc : s.count ≠ 0#16)
    (ht : t.hc = packHc s.nextHead (s.count - 1#16)) :
    t.head.toNat = (s.head.toNat + 1) % s.cfg.n ∧ t.count.toNat + 1 = s.count.toNat := by
  obtain ⟨hn1, hn⟩ := capacity_of_wf hwf
  rw [State.head, State.count, ht, packHc_head, packHc_count]
  exact ⟨s.nextHead_toNat hn1 hn, State.count_pred hc⟩

/-! ## REG_READ -/

/-- A read without a side effect answers the register's value. -/
theorem exec_regRead_of_valueOf {s : State} {r : Reg} {w : Word} (h : s.valueOf r = some w) :
    exec (.regRead r) s = .next { s with answer := .rdata w } := by
  cases r with
  | dr | rxpop | close | flush | rxhadd | rxhclr => cases h
  | ibrd | fbrd | lcrh | cr | imsc | baud | status | fill | ptrs | overrun | result => cases h; rfl

theorem exec_regRead_dr_of_takeRx {s t : State} {b : Byte} (h : s.takeRx = (b.setWidth 32, t)) :
    exec (.regRead .dr) s = .next { t with answer := .rdata (0#24 ++ b) } := by
  rw [← Laws.setWidth_eq_zero_append (a := 24)]
  change Host.Outcome.next (s.takeRx.2.reply (.rdata s.takeRx.1)) = _
  rw [h]
  rfl

theorem exec_regRead_dr_waiting {s : State} {b : Byte} (h : s.rxHold = some b) :
    exec (.regRead .dr) s = .next { s with rxHold := none, answer := .rdata (0#24 ++ b) } := by
  rcases s.takeRx_cases with ⟨c, hc, htake⟩ | ⟨hnone, -⟩
  · cases h.symm.trans hc
    exact exec_regRead_dr_of_takeRx htake
  · cases h.symm.trans hnone

theorem exec_regRead_dr_nothing {s : State} (h : s.rxHold = none) : ∃ b : Byte,
    exec (.regRead .dr) s = .next { s with draws := s.draws + 1, answer := .rdata (0#24 ++ b) } := by
  rcases s.takeRx_cases with ⟨c, hc, -⟩ | ⟨-, b, htake⟩
  · cases h.symm.trans hc
  · exact ⟨b, exec_regRead_dr_of_takeRx htake⟩

/-- Settles O48: a stored value narrower than a word reads zero-extended, DR empties the holding register,
and RXPOP is the READ transaction. -/
theorem regReadCases : Obligations.RegReadCases := by
  intro s
  refine ⟨?_, ?_, ?_, ?_, ?_, exec_regRead_of_valueOf rfl, exec_regRead_of_valueOf rfl, ?_,
    exec_regRead_of_valueOf rfl, exec_regRead_of_valueOf rfl, exec_regRead_of_valueOf rfl,
    fun b => exec_regRead_dr_waiting, exec_regRead_dr_nothing, readPop_empty, ?rxpop, ?unreadable⟩
  case rxpop =>
    intro hwf hc hh
    obtain ⟨b, d, hb, hpop⟩ := readPop_byte hc hh
    refine ⟨_, b, hpop, fun x hx => (hb x hx).1, rfl, ?_⟩
    exact and_assoc.1 ⟨State.ptrs_of_pop hwf hc rfl, rfl⟩
  case unreadable => rintro _ (rfl | rfl | rfl | rfl) <;> rfl
  all_goals exact exec_regRead_of_valueOf (congrArg some (Laws.setWidth_eq_zero_append _))

/-! ## SET_BITS and WRITE_HARD -/

theorem exec_setBits_of_not_stored {r : Reg} (h : r.stored = false) (s : State) (mask : Word) :
    exec (.setBits r mask) s = .refused (.noMeaningOn .setBits r) := by
  cases r with
  | ibrd | fbrd | lcrh | cr | imsc => cases h
  | dr | baud | close | status | fill | rxpop | flush | rxhadd | rxhclr | ptrs | overrun
  | result => rfl

/-- Settles O49: the old value passes unchanged through the word the mask is ORed into, so truncation
touches the mask only. -/
theorem setBitsOrsMask : Obligations.SetBitsOrsMask := by
  intro s mask
  refine ⟨?_, ?_, ?_, ?_, ?_, fun r hr => exec_setBits_of_not_stored hr s mask⟩
  all_goals
    rw [← Laws.setWidth_or_setWidth (by decide) _ mask]
    rfl

/-- Settles O50: each register's arm is the store, the operation it starts, or nothing. -/
theorem writeHardCases : Obligations.WriteHardCases := by
  intro s v
  refine ⟨rfl, rfl, rfl, rfl, rfl, rfl, rfl, rfl, rfl, rfl, rfl, ?_⟩
  rintro _ (rfl | rfl | rfl | rfl | rfl | rfl) <;> rfl

end Sys2Proof.Machine
end

section
/-! OPEN, CLOSE and IS_OPEN, one atomic step after the other (41_lifecycle R136 to R144). -/

namespace Sys2Proof

/-- A BUS operation's pattern, in front of DATA that holds its operand, is a word of that operation. -/
theorem decode_pattern_append {i : Instr} {p : BitVec 16} {d : Word} (hp : i.pattern = some p)
    (hd : d &&& usedDataMask i = i.operandData) : decode (p ++ d) = .ok i := by
  have hhigh : (p ++ d).extractLsb' 32 16 = p := Laws.extractLsb'_append_high p d
  have hlow : dataField (p ++ d) = d := Laws.extractLsb'_append_low p d
  rw [decode_ok_iff_pattern, hhigh, hlow]
  exact ⟨hp, hd⟩

end Sys2Proof

namespace Sys2Proof.Machine

/-- BAUD_DIV rejects no request, a quotient of 0, and one that saturates (42_baud_divisor R159). -/
theorem baudDiv_rejects_iff (clk : Nat) (r : Word) : (baudDiv clk r).accept = false ↔
    r = 0#32 ∨ (baudDiv clk r).i = 0#16 ∨ (baudDiv clk r).i = 0xFFFF#16 := by
  by_cases hr : r = 0#32
  · simp [baudDiv, hr]
  · simp [baudDiv, hr, or_iff_not_imp_left]

/-! ## The first steps -/

theorem State.openStart_accepted {s : State} {r : Word} (h : (baudDiv s.cfg.clk r).accept = true) :
    s.openStart r = { s with
      seq := .opening .o3 r (baudDiv s.cfg.clk r).i (baudDiv s.cfg.clk r).f } :=
  if_pos h

theorem State.openStart_rejected {s : State} {r : Word} (h : (baudDiv s.cfg.clk r).accept = false) :
    s.openStart r = { s with baudRate := 0#32, lastResult := 0#32 } :=
  if_neg (Bool.eq_false_iff.1 h)

theorem exec_openDev_of_free {s : State} (hq : s.seq = .idle) (hl : s.loop = .quiet) (r : Word) :
    exec (.openDev r) s = .next (s.openStart r) :=
  whenFree_of_free hq hl _

theorem exec_openDev_accepted {s : State} {r : Word} {i : BitVec 16} {f : BitVec 6} (hq : s.seq = .idle)
    (hl : s.loop = .quiet) (hdiv : baudDiv s.cfg.clk r = { i := i, f := f, accept := true }) :
    exec (.openDev r) s = .next { s with seq := .opening .o3 r i f } := by
  have hacc : (baudDiv s.cfg.clk r).accept = true := by rw [hdiv]
  rw [exec_openDev_of_free hq hl, State.openStart_accepted hacc, hdiv]

theorem exec_closeDev_of_free {s : State} (hq : s.seq = .idle) (hl : s.loop = .quiet) :
    exec .closeDev s = .next { s with vicEnabled := false, seq := .closing .k2 } := by
  rw [← s.closeStart_eq]
  exact whenFree_of_free hq hl _

/-- Settles O15: the divisor engine's verdict, and the branch OPEN takes on it. -/
theorem openRejectedCloses : Obligations.OpenRejectedCloses := by
  intro s r
  refine ⟨baudDiv_rejects_iff s.cfg.clk r, fun hq hl hrej => ?_⟩
  rw [exec_openDev_of_free hq hl, State.openStart_rejected hrej]

/-! ## The micro-steps -/

theorem stepFG_opening {s : State} {k : OpenStep} {r : Word} {i : BitVec 16} {f : BitVec 6}
    (h : s.seq = .opening k r i f) : stepFG s = .next (s.openMicro k r i f) := by
  rw [stepFG, h]

theorem stepFG_closing {s : State} {k : CloseStep} (h : s.seq = .closing k) :
    stepFG s = .next (s.closeMicro k) := by
  rw [stepFG, h]

/-- Settles O16: OPEN's word from its pattern, its transaction from the accepting branch, and each
micro-step from the sequencer's store written out. -/
theorem openStepsInOrder : Obligations.OpenStepsInOrder := by
  refine ⟨fun d => decode_pattern_append rfl (Laws.and_allBits d), fun s r i f => ?_⟩
  refine ⟨exec_openDev_accepted, fun h => ?_, fun h => ?_, fun h => ?_, fun h => ?_, fun h => ?_,
    fun h => ?_, fun h => ?_, fun h => ?_, fun h => ?_⟩
  all_goals rw [stepFG_opening h]
  · rw [State.openMicro_o3]
  · rw [State.openMicro_o4]
  · rw [State.openMicro_o5]
  · rw [State.openMicro_o6]
  · rw [State.openMicro_o7]
  · rw [State.openMicro_o8]
  · rw [State.openMicro_o9]
  · rw [State.openMicro_o10]
  · rw [State.openMicro_o11]

/-- Settles O18: CLOSE's word takes no operand, its transaction is K1, and K2 and K3 are the sequencer's
writes written out. -/
theorem closeStepsInOrder : Obligations.CloseStepsInOrder := by
  refine ⟨fun d => decode_pattern_append rfl BitVec.and_zero, fun s => ?_⟩
  refine ⟨exec_closeDev_of_free, fun h => ?_, fun h => ?_⟩
  · rw [stepFG_closing h, State.closeMicro_k2]
  · rw [stepFG_closing h, State.closeMicro_k3]

/-! ## IS_OPEN -/

/-- Bit 0 of STATUS is OPEN (46_observation R216). -/
theorem State.statusWord_bit0 (s : State) : s.statusWord.getLsbD 0 = s.flagOpen := by
  rw [State.statusWord, BitVec.getLsbD_append]
  exact BitVec.getLsbD_ofBool s.flagOpen 0

/-- Settles O20: IS_OPEN answers bit 0 of STATUS, as a number. -/
theorem isOpenAnswers : Obligations.IsOpenAnswers := by
  intro s hq hl
  have hanswer : (s.statusWord.getLsbD 0).toNat = if s.baudRate = 0#32 then 0 else 1 := by
    rw [s.statusWord_bit0, State.flagOpen]
    by_cases h : s.baudRate = 0#32 <;> simp [h]
  rw [← hanswer]
  exact whenFree_of_free hq hl _

end Sys2Proof.Machine
end

section
/-! OPEN and CLOSE under any interleaving (41_lifecycle R137, R140, R141; 20_memory R72, R81, R82): the other
agents reach neither the sequencer nor what it writes, so that an operation ends as it does by itself, up to
the parts of the state that are theirs. -/

namespace Sys2Proof.Machine

/-! ## What the other agents can touch -/

/-- The state without what the two sides of the line own, and without the schedule. -/
def State.offLine (s : State) : State :=
  { s with rxHold := none, lineOverrun := false, rxSeq := [], txHold := none, txLog := [], sched := [] }

/-- The state without what the dispatcher writes either: what no agent but the foreground touches. -/
def State.fgPart (s : State) : State :=
  { s.offLine with hc := 0#32, buf := [], overrunCount := 0#32, offered := [], accepted := [] }

/-- `s` is what the other agents may have made of `a`: the foreground's part is the same, and with the line
disabled the ring buffer too (60_exceptions R256). -/
def Beside (a s : State) : Prop :=
  s.fgPart = a.fgPart ∧ (a.vicEnabled = false → s.offLine = a.offLine)

theorem Beside.refl (s : State) : Beside s s := ⟨rfl, fun _ => rfl⟩

/-- Only the line's side has moved. -/
theorem Beside.of_offLine {a s : State} (h : s.offLine = a.offLine) : Beside a s := by
  have hfg : s.offLine.fgPart = a.offLine.fgPart := congrArg State.fgPart h
  exact ⟨hfg, fun _ => h⟩

/-- A field reads the same off both, on the foreground's part. -/
theorem Beside.read {a s : State} (h : Beside a s) {α : Type} (field : State → α) :
    field s.fgPart = field a.fgPart :=
  congrArg field h.1

theorem Beside.trans {a s t : State} (h : Beside a s) (h' : Beside s t) : Beside a t :=
  ⟨h'.1.trans h.1, fun hoff => (h'.2 ((h.read State.vicEnabled).trans hoff)).trans (h.2 hoff)⟩

/-- DISPATCH leaves the foreground's part, and needs the line enabled. -/
theorem Beside.deliver {s : State} (h : s.dispatchEnabled = true) : Beside s s.deliver := by
  obtain ⟨-, -, hon, -⟩ := s.dispatchEnabled_iff.1 h
  refine ⟨?_, fun hoff => absurd (hoff.symm.trans hon) Bool.false_ne_true⟩
  obtain ⟨b, -, ⟨-, e⟩ | ⟨-, e⟩⟩ := State.deliver_cases h <;> rw [e] <;> rfl

/-- A turn of another agent goes through, and leaves what is not that agent's. -/
theorem takeTurn_beside {t : Turn} (hfg : t ≠ .fg) (hreset : t ≠ .reset) (s : State) :
    ∃ u, takeTurn t s = .next u ∧ u.sched = s.sched ∧ Beside s u := by
  cases t with
  | fg => exact absurd rfl hfg
  | reset => exact absurd rfl hreset
  | disp =>
    by_cases h : s.dispatchEnabled = true
    · refine ⟨s.deliver, ?_, ?_, .deliver h⟩
      · simp only [takeTurn, stepDISP, exec, execDispatch, if_pos h]
      · obtain ⟨b, -, ⟨-, e⟩ | ⟨-, e⟩⟩ := State.deliver_cases h <;> rw [e]
    · exact ⟨s, if_neg h, rfl, .refl s⟩
  | lineRx b =>
    simp only [takeTurn, stepLineRx, exec, execRxDeliver]
    split
    · split
      · exact ⟨_, rfl, rfl, .of_offLine rfl⟩
      · exact ⟨_, rfl, rfl, .of_offLine rfl⟩
    · exact ⟨s, rfl, rfl, .refl s⟩
  | lineTx =>
    by_cases h : s.emitEnabled = true
    · obtain ⟨hwaits, henabled⟩ := Bool.and_eq_true_iff.1 h
      obtain ⟨b, hb⟩ := Option.isSome_iff_exists.1 hwaits
      simp only [takeTurn, stepLineTx, exec, execTxEmit, if_pos h, if_pos henabled, hb]
      exact ⟨_, rfl, rfl, .of_offLine rfl⟩
    · exact ⟨s, if_neg h, rfl, .refl s⟩

/-! ## A turn of the foreground, whatever the others have done -/

/-- The foreground's next turn takes `a` to `b`, and whatever the other agents have made of `a` to what they
may have made of `b`. -/
def Steady (a b : State) : Prop :=
  ∀ s, Beside a s → ∃ u, stepFG s = .next u ∧ u.sched = s.sched ∧ Beside b u

/-- `n` such turns in a row. -/
inductive SteadyRun : Nat → State → State → Prop where
  | done (a : State) : SteadyRun 0 a a
  | turn {n : Nat} {a b c : State} (h : Steady a b) (hr : SteadyRun n b c) : SteadyRun (n + 1) a c

theorem run_succ_of_step {s u : State} (h : step s = .next u) (n : Nat) :
    Host.Core.run core (n + 1) s = Host.Core.run core n u := by
  have hstep : core.step s = .next u := h
  simp only [Host.Core.run, hstep]

/-- Along a schedule without RESET the foreground's turns are the ones that count. -/
theorem SteadyRun.interleaved {n : Nat} {a c : State} (hr : SteadyRun n a c) {ts : List Turn} :
    ∀ {s : State}, Beside a s → s.sched = ts → noReset ts = true → fgTurns ts = n →
      ∃ u, Host.Core.run core ts.length s = .next u ∧ Beside c u := by
  induction ts generalizing n a with
  | nil =>
    rintro s hs - - rfl
    cases hr
    exact ⟨s, rfl, hs⟩
  | cons t ts ih =>
    intro s hs hsched hnoReset hn
    have hs' : Beside a { s with sched := ts } := hs.trans (.of_offLine rfl)
    obtain ⟨hreset, hnoReset⟩ : t ≠ .reset ∧ noReset ts = true := by
      simpa [noReset] using hnoReset
    by_cases hfg : t = .fg
    · subst hfg
      rw [fgTurns, List.count_cons_self] at hn
      subst hn
      cases hr with
      | turn h hr =>
        obtain ⟨u, hturn, hu, hb⟩ := h _ hs'
        rw [List.length_cons, run_succ_of_step ((step_turn hsched).trans hturn)]
        exact ih hr hb hu hnoReset rfl
    · rw [fgTurns, List.count_cons_of_ne hfg] at hn
      obtain ⟨u, hturn, hu, hb⟩ := takeTurn_beside hfg hreset { s with sched := ts }
      rw [List.length_cons, run_succ_of_step ((step_turn hsched).trans hturn)]
      exact ih hr (hs'.trans hb) hu hnoReset hn

/-! ## The turns of OPEN and CLOSE -/

/-- A change whose effect on the foreground's part depends on nothing else, and which does not disable the
line. -/
theorem Beside.map {a s : State} (h : Beside a s) (g : State → State)
    (hfg : ∀ s : State, (g s).fgPart = (g s.fgPart).fgPart)
    (hoffLine : ∀ s : State, (g s).offLine = (g s.offLine).offLine)
    (hline : (g a).vicEnabled = false → a.vicEnabled = false) : Beside (g a) (g s) :=
  ⟨by rw [hfg s, hfg a, h.1], fun hoff => by rw [hoffLine s, hoffLine a, h.2 (hline hoff)]⟩

theorem Beside.openMicro {a s : State} (h : Beside a s) (k : OpenStep) (r : Word) (i : BitVec 16)
    (f : BitVec 6) : Beside (a.openMicro k r i f) (s.openMicro k r i f) := by
  cases k with
  | o3 | o4 | o5 | o6 | o7 | o10 | o11 =>
    exact h.map (State.openMicro · _ r i f) (fun _ => rfl) (fun _ => rfl) id
  | o8 =>
    simp only [State.openMicro_o8]
    exact h.map (fun s => { s with vicEnabled := true, seq := .opening .o9 r i f }) (fun _ => rfl)
      (fun _ => rfl) nofun
  | o9 =>
    simp only [State.openMicro_o9]
    exact h.map (fun s => { s with vicHandler := some s.cfg.rxcb, seq := .opening .o10 r i f })
      (fun _ => rfl) (fun _ => rfl) id

theorem Beside.closeMicro {a s : State} (h : Beside a s) (k : CloseStep) :
    Beside (a.closeMicro k) (s.closeMicro k) := by
  cases k with
  | k2 | k3 => exact h.map (State.closeMicro · _) (fun _ => rfl) (fun _ => rfl) id

theorem State.openMicro_sched (s : State) (k : OpenStep) (r : Word) (i : BitVec 16) (f : BitVec 6) :
    (s.openMicro k r i f).sched = s.sched := by
  cases k with
  | o3 | o4 | o5 | o6 | o7 | o10 | o11 => rfl
  | o8 => rw [State.openMicro_o8]
  | o9 => rw [State.openMicro_o9]

theorem State.closeMicro_sched (s : State) (k : CloseStep) : (s.closeMicro k).sched = s.sched := by
  cases k with
  | k2 | k3 => rfl

theorem Steady.openMicro {a : State} {k : OpenStep} {r : Word} {i : BitVec 16} {f : BitVec 6}
    (hk : a.seq = .opening k r i f) : Steady a (a.openMicro k r i f) := by
  intro s hs
  have hseq : s.seq = a.seq := hs.read State.seq
  exact ⟨_, stepFG_opening (hseq.trans hk), s.openMicro_sched k r i f, hs.openMicro k r i f⟩

theorem Steady.closeMicro {a : State} {k : CloseStep} (hk : a.seq = .closing k) :
    Steady a (a.closeMicro k) := by
  intro s hs
  have hseq : s.seq = a.seq := hs.read State.seq
  exact ⟨_, stepFG_closing (hseq.trans hk), s.closeMicro_sched k, hs.closeMicro k⟩

/-- The transaction of an accepted OPEN, O1 and O2, reads the clock and nothing else of the block. -/
theorem Steady.openStart {a : State} {w : TxnWord} {r : Word} {i : BitVec 16} {f : BitVec 6}
    {ops : List HostOp} (hq : a.seq = .idle) (hl : a.loop = .quiet) (hh : a.host = .bus w :: ops)
    (hd : decode w = .ok (.openDev r))
    (hdiv : baudDiv a.cfg.clk r = { i := i, f := f, accept := true }) :
    Steady a { a with host := ops, seq := .opening .o3 r i f } := by
  intro s hs
  have hq : s.seq = .idle := (hs.read State.seq).trans hq
  have hl : s.loop = .quiet := (hs.read State.loop).trans hl
  have hh : s.host = .bus w :: ops := (hs.read State.host).trans hh
  have hcfg : s.cfg = a.cfg := hs.read State.cfg
  rw [← hcfg] at hdiv
  refine ⟨{ s with host := ops, seq := .opening .o3 r i f }, ?_, rfl,
    hs.map (fun s => { s with host := ops, seq := .opening .o3 r i f }) (fun _ => rfl) (fun _ => rfl) id⟩
  rw [stepFG_issue hq hl hh, issue, runWord_of_decode hd]
  exact exec_openDev_accepted hq hl hdiv

/-- What O3 to O11 leave, nobody else moving (41_lifecycle R137). -/
def State.opened (s : State) (r : Word) (i : BitVec 16) (f : BitVec 6) : State :=
  { s with
    ibrd := i, fbrd := f, lcrh := 0x60#8, cr := 0x0301#16, imsc := s.imsc ||| 0x010#11
    vicEnabled := true, vicHandler := some s.cfg.rxcb, hc := 0#32, accepted := [], returned := []
    baudRate := r, lastResult := 1#32, seq := .idle }

/-- Nine turns of the foreground take OPEN from O3 to its end. -/
theorem SteadyRun.opening {a : State} {r : Word} {i : BitVec 16} {f : BitVec 6}
    (hk : a.seq = .opening .o3 r i f) : SteadyRun 9 a (a.opened r i f) := by
  have hrun : SteadyRun 9 a _ :=
    .turn (.openMicro hk) <| .turn (.openMicro rfl) <| .turn (.openMicro rfl) <|
    .turn (.openMicro rfl) <| .turn (.openMicro rfl) <| .turn (.openMicro rfl) <|
    .turn (.openMicro rfl) <| .turn (.openMicro rfl) <| .turn (.openMicro rfl) <| .done _
  simp only [State.openMicro_o3, State.openMicro_o4, State.openMicro_o5, State.openMicro_o6,
    State.openMicro_o7, State.openMicro_o8, State.openMicro_o9, State.openMicro_o10,
    State.openMicro_o11] at hrun
  exact hrun

/-- Settles O17: the transaction and the nine micro-steps are ten steady turns of the foreground, and all the
statement reads of the end is the foreground's part. -/
theorem openCompletesUnderAnyInterleaving : Obligations.OpenCompletesUnderAnyInterleaving := by
  intro s w r ops ts hq hl hh hd hacc hsched hnoReset hfg _
  have hdiv : baudDiv s.cfg.clk r =
      { i := (baudDiv s.cfg.clk r).i, f := (baudDiv s.cfg.clk r).f, accept := true } := by rw [← hacc]
  have hrun := SteadyRun.turn (.openStart hq hl hh hd hdiv) (.opening rfl)
  obtain ⟨u, hu, hend⟩ := hrun.interleaved (.refl s) hsched hnoReset hfg
  exact ⟨u, hu, hend.read State.seq, (hend.read State.loop).trans hl, hend.read State.host,
    hend.read State.baudRate, hend.read State.lastResult, hend.read State.ibrd, hend.read State.fbrd,
    hend.read State.lcrh, hend.read State.cr, hend.read State.imsc, hend.read State.vicEnabled,
    hend.read State.vicHandler⟩

/-- What K2 and K3 leave, nobody else moving (41_lifecycle R141). -/
def State.closed (s : State) : State :=
  { s with
    baudRate := 0#32, hc := 0#32, lastResult := 1#32, accepted := [], returned := [], seq := .idle }

/-- Two turns of the foreground take CLOSE from K2 to its end. -/
theorem SteadyRun.closing {a : State} (hk : a.seq = .closing .k2) : SteadyRun 2 a a.closed :=
  .turn (.closeMicro hk) (.turn (.closeMicro rfl) (.done _))

/-- Settles O19: K1 is the first turn of all and disables the line, so that after it K2 and K3 are steady turns
of the foreground and nobody else reaches the ring buffer. -/
theorem closeCompletesUnderAnyInterleaving : Obligations.CloseCompletesUnderAnyInterleaving := by
  intro s w ops ts hq hl hh hd hsched hnoReset hfg _
  obtain ⟨a, hK1, ha⟩ : ∃ a, step s = .next a ∧
      a = { s with host := ops, sched := ts, vicEnabled := false, seq := .closing .k2 } := by
    refine ⟨_, (step_issue hq hl hh (.inl hsched)).trans ?_, rfl⟩
    rw [issue, runWord_of_decode hd]
    exact exec_closeDev_of_free hq hl
  obtain ⟨u, hu, -, hoffLine⟩ :=
    (SteadyRun.closing (by rw [ha])).interleaved (.refl a) (by rw [ha]) hnoReset hfg
  have read {α : Type} (field : State → α) : field u.offLine = field a.closed.offLine :=
    congrArg field (hoffLine (by rw [ha]; rfl))
  subst ha
  rw [run_succ_of_step hK1]
  exact ⟨u, hu, read State.seq, (read State.loop).trans hl, read State.host, read State.baudRate,
    read State.hc, read State.lastResult, read State.vicEnabled, read State.ibrd, read State.fbrd,
    read State.lcrh, read State.cr, read State.imsc, read State.vicHandler, read State.overrunCount,
    read State.buf, read State.txCorrupt⟩

end Sys2Proof.Machine
end

section
/-! The lifecycle state: no operation reads it but to report it (41_lifecycle R146), and only OPEN, CLOSE and
RESET write it (10_state R22, 41_lifecycle R135). -/

namespace Sys2Proof.Machine

/-- `s` with another lifecycle state. -/
def State.withRate (s : State) (rate : Word) : State := { s with baudRate := rate }

/-- An outcome with its next state, if it has one, changed. -/
def onNext (g : State → State) : Result → Result
  | .next t => .next (g t)
  | .fault e => .fault e
  | .refused e => .refused e

/-- With `rate` in place of `baud_rate` the operation ends in the same way and leaves the same state, `rate`
still in place. -/
def Blind (rate : Word) (op : State → Result) : Prop :=
  ∀ s : State, op (s.withRate rate) = onNext (·.withRate rate) (op s)

theorem onNext_whenFree (g : State → State) (s : State) (r : Result) :
    onNext g (whenFree s r) = whenFree s (onNext g r) := by
  unfold whenFree
  split <;> rfl

/-- The entry guard does not look at the lifecycle state. -/
theorem whenFree_withRate {s : State} {rate : Word} {r r' : Result}
    (h : r' = onNext (·.withRate rate) r) :
    whenFree (s.withRate rate) r' = onNext (·.withRate rate) (whenFree s r) := by
  rw [onNext_whenFree, h]
  rfl

/-! ## The shared operations -/

theorem State.withRate_txHold (s : State) (rate : Word) : (s.withRate rate).txHold = s.txHold := rfl

theorem State.withRate_rxHold (s : State) (rate : Word) : (s.withRate rate).rxHold = s.rxHold := rfl

theorem State.dequeue_withRate (s : State) (rate : Word) :
    (s.withRate rate).dequeue = s.dequeue.map fun (w, t) => (w, t.withRate rate) := by
  unfold State.dequeue
  change (if s.count = 0#16 then _ else if s.head.toNat < s.cfg.n then _ else none) = _
  split
  · rfl
  · split <;> rfl

theorem State.transmit_withRate (s : State) (rate : Word) (b : Byte) :
    (s.withRate rate).transmit b = (s.transmit b).withRate rate := by
  unfold State.transmit
  change (if s.txEnabled = true then _ else _) = _
  rw [State.withRate_txHold]
  split
  · split <;> rfl
  · rfl

theorem State.enqueue_withRate (s : State) (rate : Word) (b : Byte) :
    (s.withRate rate).enqueue b = ((s.enqueue b).1, (s.enqueue b).2.withRate rate) := by
  by_cases h : s.count.toNat = s.cfg.n
  · rw [State.enqueue_full h, State.enqueue_full (s := s.withRate rate) h]
    rfl
  · rw [State.enqueue_room h, State.enqueue_room (s := s.withRate rate) h]
    rfl

theorem State.takeRx_withRate (s : State) (rate : Word) :
    (s.withRate rate).takeRx = (s.takeRx.1, s.takeRx.2.withRate rate) := by
  unfold State.takeRx
  rw [State.withRate_rxHold]
  split <;> rfl

theorem State.deliver_withRate (s : State) (rate : Word) :
    (s.withRate rate).deliver = s.deliver.withRate rate := by
  simp only [State.deliver, State.takeRx_withRate, State.enqueue_withRate]

theorem State.lineOn_withRate (s : State) (rate : Word) (irq : Nat) :
    (s.withRate rate).lineOn irq = (s.lineOn irq).withRate rate :=
  (apply_ite (State.withRate · rate) (irq = s.cfg.irq) { s with vicEnabled := true } s).symm

theorem State.lineOff_withRate (s : State) (rate : Word) (irq : Nat) :
    (s.withRate rate).lineOff irq = (s.lineOff irq).withRate rate :=
  (apply_ite (State.withRate · rate) (irq = s.cfg.irq) { s with vicEnabled := false } s).symm

theorem State.bindLine_withRate (s : State) (rate : Word) (irq : Nat) (h : HandlerRef) :
    (s.withRate rate).bindLine irq h = (s.bindLine irq h).withRate rate :=
  (apply_ite (State.withRate · rate) (irq = s.cfg.irq) { s with vicHandler := some h } s).symm

theorem State.writeBufTurn_withRate (s : State) (rate : Word) (rest : List Byte) (len : Nat) :
    (s.withRate rate).writeBufTurn rest len = (s.writeBufTurn rest len).withRate rate := by
  match rest with
  | [] => rfl
  | [b] => simp only [State.writeBufTurn, State.transmit_withRate]; rfl
  | b :: c :: more => simp only [State.writeBufTurn, State.transmit_withRate]; rfl

theorem blind_readPop (rate : Word) : Blind rate readPop := by
  intro s
  rw [readPop, readPop, State.dequeue_withRate]
  cases s.dequeue <;> rfl

theorem blind_readIntoTurn (rate : Word) (out : List Byte) (max n : Nat) :
    Blind rate (readIntoTurn out max n) := by
  intro s
  unfold readIntoTurn
  rw [State.dequeue_withRate]
  split
  · cases s.dequeue with
    | none => rfl
    | some p =>
      simp only [Option.map_some]
      split
      · split <;> rfl
      · rfl
  · rfl

/-! ## The operations -/

theorem observe_withRate (s : State) (rate w : Word) :
    observe (s.withRate rate) w = onNext (·.withRate rate) (observe s w) :=
  whenFree_withRate rfl

theorem blind_execWrite (rate : Word) (b : Byte) : Blind rate (execWrite b) :=
  fun s => whenFree_withRate (congrArg _ (s.transmit_withRate rate b))

theorem blind_execCloseDev (rate : Word) : Blind rate execCloseDev := by
  intro s
  rw [execCloseDev, execCloseDev, State.closeStart_eq, State.closeStart_eq]
  exact whenFree_withRate rfl

theorem blind_execFlush (rate : Word) : Blind rate execFlush :=
  fun _ => whenFree_withRate rfl

theorem blind_execAddReceiveHandler (rate cb : Word) : Blind rate (execAddReceiveHandler cb) :=
  fun _ => whenFree_withRate rfl

theorem blind_execClearReceiveHandlers (rate : Word) : Blind rate execClearReceiveHandlers :=
  fun _ => whenFree_withRate rfl

theorem blind_execReadInto (rate : Word) (out : List Byte) (max : Nat) :
    Blind rate (execReadInto out max) := by
  intro s
  by_cases h : max ≤ out.length
  · rw [execReadInto, execReadInto, if_pos h, if_pos h]
    exact whenFree_withRate (blind_readIntoTurn rate out max 0 s)
  · rw [execReadInto, execReadInto, if_neg h, if_neg h]
    exact whenFree_withRate rfl

theorem blind_execDispatch (rate : Word) : Blind rate execDispatch := by
  intro s
  unfold execDispatch
  rw [State.deliver_withRate]
  change (if s.dispatchEnabled = true then _ else _) = _
  split <;> rfl

theorem blind_execRxDeliver (rate : Word) (b : Byte) : Blind rate (execRxDeliver b) := by
  intro s
  unfold execRxDeliver
  change (if s.rxEnabled = true then _ else _) = _
  rw [State.withRate_rxHold]
  split
  · split <;> rfl
  · rfl

theorem blind_execTxEmit (rate : Word) : Blind rate execTxEmit := by
  intro s
  unfold execTxEmit
  change (if s.txEnabled = true then _ else _) = _
  rw [State.withRate_txHold]
  split
  · split <;> rfl
  · rfl

theorem blind_execRegRead (rate : Word) {reg : Reg} (hb : reg ≠ .baud) (hs : reg ≠ .status) :
    Blind rate (execRegRead reg) := by
  intro s
  cases reg with
  | baud => exact absurd rfl hb
  | status => exact absurd rfl hs
  | dr => simp only [execRegRead, State.takeRx_withRate]; rfl
  | rxpop => exact blind_readPop rate s
  | ibrd | fbrd | lcrh | cr | imsc | close | fill | flush | rxhadd | rxhclr | ptrs | overrun
  | result => rfl

theorem blind_execSetBits (rate : Word) (reg : Reg) (mask : Word) : Blind rate (execSetBits reg mask) := by
  intro s
  cases reg <;> rfl

theorem blind_execWriteHard (rate : Word) {reg : Reg} (hb : reg ≠ .baud) (v : Word) :
    Blind rate (execWriteHard reg v) := by
  intro s
  cases reg with
  | baud => exact absurd rfl hb
  | dr => exact blind_execWrite rate (dataByte v) s
  | close => exact blind_execCloseDev rate s
  | flush => exact blind_execFlush rate s
  | rxhadd => exact blind_execAddReceiveHandler rate v s
  | rxhclr => exact blind_execClearReceiveHandlers rate s
  | ibrd | fbrd | lcrh | cr | imsc | status | fill | rxpop | ptrs | overrun | result => rfl

/-! ## OPEN -/

/-- An accepted OPEN latches what the divisor engine gives, and leaves the lifecycle state to O11. -/
theorem execOpenDev_withRate_of_accepted {s : State} {r : Word}
    (h : (baudDiv s.cfg.clk r).accept = true) (rate : Word) :
    execOpenDev r (s.withRate rate) = onNext (·.withRate rate) (execOpenDev r s) := by
  have h' : (baudDiv (s.withRate rate).cfg.clk r).accept = true := h
  rw [execOpenDev, execOpenDev, State.openStart_accepted h, State.openStart_accepted h']
  exact whenFree_withRate rfl

/-- A rejected OPEN overwrites the lifecycle state. -/
theorem execOpenDev_withRate_of_rejected {s : State} {r : Word}
    (h : (baudDiv s.cfg.clk r).accept = false) (rate : Word) :
    execOpenDev r (s.withRate rate) = execOpenDev r s := by
  have h' : (baudDiv (s.withRate rate).cfg.clk r).accept = false := h
  rw [execOpenDev, execOpenDev, State.openStart_rejected h, State.openStart_rejected h']
  rfl

/-! ## The statements -/

/-- The operations whose answer reports the lifecycle state. -/
def ReportsRate (i : Instr) : Prop :=
  i = .isOpen ∨ i = .rdStatus ∨ i = .rdBaud ∨ i = .regRead .baud ∨ i = .regRead .status

/-- OPEN, by transaction or by WRITE_HARD, of a rate the divisor engine rejects. -/
def RejectedOpen (c : Config) (i : Instr) : Prop :=
  ∃ r, (i = .openDev r ∨ i = .writeHard .baud r) ∧ (baudDiv c.clk r).accept = false

theorem exec_withRate {i : Instr} {s : State} (hreport : ¬ ReportsRate i)
    (hopen : ¬ RejectedOpen s.cfg i) (rate : Word) :
    exec i (s.withRate rate) = onNext (·.withRate rate) (exec i s) := by
  simp only [ReportsRate, not_or] at hreport
  obtain ⟨hisOpen, hstatus, hbaud, hregBaud, hregStatus⟩ := hreport
  have accepted (r : Word) (hi : i = .openDev r ∨ i = .writeHard .baud r) :
      (baudDiv s.cfg.clk r).accept = true :=
    Bool.of_not_eq_false fun hrej => hopen ⟨r, hi, hrej⟩
  cases i with
  | isOpen => exact absurd rfl hisOpen
  | rdStatus => exact absurd rfl hstatus
  | rdBaud => exact absurd rfl hbaud
  | openDev r => exact execOpenDev_withRate_of_accepted (accepted r (.inl rfl)) rate
  | closeDev => exact blind_execCloseDev rate s
  | available | rdPtrs | rdOverrun | rdResult | rdIbrd | rdFbrd | rdLcrh | rdCr | rdImsc =>
    exact observe_withRate s rate _
  | read => exact whenFree_withRate (blind_readPop rate s)
  | write b => exact blind_execWrite rate b s
  | flush => exact blind_execFlush rate s
  | addReceiveHandler cb => exact blind_execAddReceiveHandler rate cb s
  | clearReceiveHandlers => exact blind_execClearReceiveHandlers rate s
  | readInto out max => exact blind_execReadInto rate out max s
  | writeBuf bytes =>
    exact whenFree_withRate (congrArg _ (s.writeBufTurn_withRate rate bytes bytes.length))
  | receive b => simp only [exec, execReceive, State.enqueue_withRate]; rfl
  | dispatch => exact blind_execDispatch rate s
  | rxDeliver b => exact blind_execRxDeliver rate b s
  | txEmit => exact blind_execTxEmit rate s
  | regRead reg =>
    exact blind_execRegRead rate (fun h => hregBaud (h ▸ rfl)) (fun h => hregStatus (h ▸ rfl)) s
  | setBits reg mask => exact blind_execSetBits rate reg mask s
  | writeHard reg v =>
    by_cases hreg : reg = .baud
    · subst hreg
      exact execOpenDev_withRate_of_accepted (accepted v (.inr rfl)) rate
    · exact blind_execWriteHard rate hreg v s
  | enableLine irq => exact congrArg _ (s.lineOn_withRate rate irq)
  | disableLine irq => exact congrArg _ (s.lineOff_withRate rate irq)
  | bindHandler irq g => exact congrArg _ (s.bindLine_withRate rate irq g)

/-- An operation that reports the lifecycle state answers, and does nothing else. -/
theorem exec_reportsRate {i : Instr} (hi : ReportsRate i) (s : State) (rate : Word) :
    ∃ a, exec i (s.withRate rate) = onNext (fun t => { t.withRate rate with answer := a }) (exec i s) := by
  have guarded (a : State → Answer) : ∃ b, whenFree (s.withRate rate)
        (.next ((s.withRate rate).reply (a (s.withRate rate)))) =
      onNext (fun t => { t.withRate rate with answer := b }) (whenFree s (.next (s.reply (a s)))) :=
    ⟨a (s.withRate rate), by rw [onNext_whenFree]; rfl⟩
  rcases hi with rfl | rfl | rfl | rfl | rfl
  · exact guarded fun s => .value (s.statusWord.getLsbD 0).toNat
  · exact guarded fun s => .rdata s.statusWord
  · exact guarded fun s => .rdata s.baudRate
  · exact ⟨.rdata rate, rfl⟩
  · exact ⟨.rdata (s.withRate rate).statusWord, rfl⟩

/-- Settles O22: operation by operation, each shared operation commuting with the replacement. -/
theorem dataOperationsIgnoreLifecycle : Obligations.DataOperationsIgnoreLifecycle := by
  intro s rate
  refine ⟨fun i hisOpen hstatus hbaud hregBaud hregStatus haccepted => ?_, fun i hi => ?_,
    fun r hrej => ⟨?_, ?_⟩⟩
  · have hreport : ¬ ReportsRate i := by
      simp only [ReportsRate, not_or]
      exact ⟨hisOpen, hstatus, hbaud, hregBaud, hregStatus⟩
    have hopen : ¬ RejectedOpen s.cfg i := by
      rintro ⟨r, hi, hrej⟩
      exact Bool.false_ne_true (hrej.symm.trans (haccepted r hi))
    refine (exec_withRate hreport hopen rate).trans ?_
    cases exec i s <;> rfl
  · obtain ⟨a, ha⟩ := exec_reportsRate hi s rate
    refine ⟨a, ha.trans ?_⟩
    cases exec i s <;> rfl
  · exact execOpenDev_withRate_of_rejected hrej rate
  · exact execOpenDev_withRate_of_rejected hrej rate


/-! ## What changes the lifecycle state -/

/-- Replacing the lifecycle state by itself is no change, so what does the same with any keeps it. -/
theorem exec_keeps_baudRate {i : Instr} {s t : State} (hopen : ¬ RejectedOpen s.cfg i)
    (h : exec i s = .next t) : t.baudRate = s.baudRate := by
  by_cases hreport : ReportsRate i
  · obtain ⟨a, ha⟩ := exec_reportsRate hreport s s.baudRate
    change exec i s = _ at ha
    rw [h] at ha
    exact (congrArg State.baudRate (Host.Outcome.next.inj ha) :)
  · have hself := exec_withRate hreport hopen s.baudRate
    change exec i s = _ at hself
    rw [h] at hself
    exact (congrArg State.baudRate (Host.Outcome.next.inj hself) :)

/-- An operation that changes the lifecycle state is a rejected OPEN. -/
theorem rejectedOpen_of_exec {i : Instr} {s t : State} (h : exec i s = .next t)
    (hne : t.baudRate ≠ s.baudRate) : RejectedOpen s.cfg i :=
  not_imp_comm.1 (exec_keeps_baudRate · h) hne

theorem runWord_changes_baudRate {w : TxnWord} {s t : State} (h : runWord w s = .next t)
    (hne : t.baudRate ≠ s.baudRate) :
    ∃ r, decode w = .ok (.openDev r) ∧ (baudDiv s.cfg.clk r).accept = false ∧
      t = { s with baudRate := 0#32, lastResult := 0#32 } := by
  unfold runWord at h
  split at h
  · rename_i i hd
    obtain ⟨r, rfl | rfl, hrej⟩ := rejectedOpen_of_exec h hne
    · obtain ⟨-, -, h⟩ := whenFree_next h
      rw [State.openStart_rejected hrej] at h
      exact ⟨r, hd, hrej, (Host.Outcome.next.inj h).symm⟩
    · cases decode_isBus hd
  · cases h

/-- A host operation that changes the lifecycle state is the transaction of a rejected OPEN. -/
theorem issue_changes_baudRate {op : HostOp} {s t : State} (h : issue op s = .next t)
    (hne : t.baudRate ≠ s.baudRate) :
    ∃ w, op.word s.cfg = some w ∧ ∃ r, decode w = .ok (.openDev r) ∧
      (baudDiv s.cfg.clk r).accept = false ∧ t = { s with baudRate := 0#32, lastResult := 0#32 } := by
  cases op with
  | bus w => exact ⟨w, rfl, runWord_changes_baudRate h hne⟩
  | access k addr d =>
    simp only [issue] at h
    split at h
    · exact ⟨_, ‹_›, runWord_changes_baudRate h hne⟩
    · cases h
  | isOpen | readInto | writeBuf | enableLine | disableLine | bindHandler =>
    simp only [issue] at h
    obtain ⟨r, hi | hi, -⟩ := rejectedOpen_of_exec h hne <;> cases hi

/-- Inside an operation the foreground changes the lifecycle state in O11 and in K2. -/
theorem FgMove.baudRate_cases {s t : State} (h : FgMove s t) : t.baudRate = s.baudRate ∨
    (∃ i f, s.seq = .opening .o11 t.baudRate i f) ∨ (s.seq = .closing .k2 ∧ t.baudRate = 0#32) ∨
    (s.seq = .idle ∧ s.loop = .quiet) := by
  cases h with
  | openMicro k r i f hk =>
    cases k with
    | o3 | o4 | o5 | o6 | o7 | o10 => exact .inl rfl
    | o8 => rw [State.openMicro_o8]; exact .inl rfl
    | o9 => rw [State.openMicro_o9]; exact .inl rfl
    | o11 => exact .inr (.inl ⟨i, f, hk⟩)
  | closeMicro k hk =>
    cases k with
    | k2 => exact .inr (.inr (.inl ⟨hk, rfl⟩))
    | k3 => exact .inl rfl
  | stay | answer | latchZero => exact .inl rfl
  | openAccept hq hl | openReject hq hl | close hq hl => exact .inr (.inr (.inr ⟨hq, hl⟩))
  | pop hq w u hd l a hl => obtain ⟨_, _, _, _, rfl⟩ := State.dequeue_frame hd; exact .inl rfl
  | transmit hq b l a hl => obtain ⟨_, _, _, _, -, e⟩ := s.transmit_frame b; rw [e]; exact .inl rfl
  | lineOn hq irq => rcases s.lineOn_cases irq with e | e <;> rw [e] <;> exact .inl rfl
  | lineOff hq irq => rcases s.lineOff_cases irq with e | e <;> rw [e] <;> exact .inl rfl
  | bindLine hq irq g => rcases s.bindLine_cases irq g with e | e <;> rw [e] <;> exact .inl rfl

/-- Settles O21: inside an operation the two micro-steps, outside one what the foreground issues; no other
agent writes it. -/
theorem lifecycleChangesOnlyByOpenAndClose : Obligations.LifecycleChangesOnlyByOpenAndClose := by
  intro s t hstep hne
  have hturn := s.nextTurn_snd
  have hrate : s.nextTurn.2.baudRate = s.baudRate := by rw [hturn]
  cases step_cases hstep with
  | fg ht h hi =>
    refine .inr ⟨ht, ?_⟩
    have hseq : s.nextTurn.2.seq = s.seq := by rw [hturn]
    have hloop : s.nextTurn.2.loop = s.loop := by rw [hturn]
    rcases h.baudRate_cases with hkept | ⟨i, f, hk⟩ | ⟨hk, hzero⟩ | ⟨hq, hl⟩
    · exact absurd (hkept.trans hrate) hne
    · exact .inl ⟨i, f, hseq ▸ hk⟩
    · exact .inr (.inl ⟨hseq ▸ hk, hzero⟩)
    · exact absurd ((congrArg _ (hi (hseq ▸ hq) (hloop ▸ hl))).trans hrate) hne
  | fgIssue ht op ops hq hl hh hi h =>
    rw [hturn] at hi
    obtain ⟨w, hw, r, hd, hrej, rfl⟩ := issue_changes_baudRate hi hne
    exact .inr ⟨ht, .inr (.inr ⟨op, ops, w, r, hq, hl, hh, hw, hd, hrej, rfl, rfl, hq, rfl⟩)⟩
  | dispatch ht h =>
    obtain ⟨b, -, ⟨-, e⟩ | ⟨-, e⟩⟩ := State.deliver_cases h <;>
      exact absurd ((congrArg State.baudRate e).trans hrate) hne
  | passes | received | overrun | emitted => exact absurd hrate hne
  | reset ht => exact .inl ht

end Sys2Proof.Machine
end

section
/-! The divisor engine BAUD_DIV: its outputs as natural numbers, its bounds, and the accepted rates
(42_baud_divisor R155 to R164). -/

namespace Sys2Proof.Machine

/-! ## The intermediate values -/

/-- `T` is the fractional part of `CLK / (16 * R)`, scaled by 128 (42_baud_divisor R157). -/
theorem baudScaled_eq_fraction (clk r : Nat) :
    baudScaled clk r = 128 * (clk % (16 * r)) / (16 * r) := by
  rw [show 128 * (clk % (16 * r)) = 16 * (8 * (clk % (16 * r))) by omega,
    Nat.mul_div_mul_left _ _ (by decide)]
  rfl

/-- The remainder is below `16 * R`, so eight times it is below `128 * R` (42_baud_divisor R157). -/
theorem baudScaled_le {r : Nat} (clk : Nat) (hr : 0 < r) : baudScaled clk r ≤ 127 := by
  have hrem : clk % (16 * r) < 16 * r := Nat.mod_lt _ (by omega)
  have hlt : 8 * (clk % (16 * r)) / r < 128 := (Nat.div_lt_iff_lt_mul hr).2 (by omega)
  exact Nat.le_of_lt_succ hlt

theorem baudRounded_eq (clk r : Nat) :
    baudRounded clk r = baudScaled clk r / 2 + baudScaled clk r % 2 := by
  rw [baudRounded, Nat.shiftRight_one, Nat.and_one_is_mod]

theorem baudRounded_le {r : Nat} (clk : Nat) (hr : 0 < r) : baudRounded clk r ≤ 64 := by
  have hscaled : baudScaled clk r ≤ 127 := baudScaled_le clk hr
  rw [baudRounded_eq]
  omega

/-- The upper end of the accepted range (42_baud_divisor R162). -/
theorem baudQuotient_ne_zero_iff {r : Nat} (clk : Nat) (hr : 0 < r) :
    baudQuotient clk r ≠ 0 ↔ r ≤ clk / 16 := by
  rw [baudQuotient, ← Nat.pos_iff_ne_zero, Nat.div_pos_iff, Nat.le_div_iff_mul_le (by decide)]
  omega

/-- The bound and `R` trade places as divisors; at 65535 this is the lower end of the accepted range
(42_baud_divisor R162). -/
theorem baudQuotient_lt_iff {r b : Nat} (clk : Nat) (hr : 0 < r) (hb : 0 < b) :
    baudQuotient clk r < b ↔ clk / (16 * b) < r := by
  rw [baudQuotient, Nat.div_lt_iff_lt_mul (by omega), Nat.div_lt_iff_lt_mul (by omega),
    Nat.mul_left_comm, Nat.mul_left_comm r, Nat.mul_comm b r]

/-! ## The outputs -/

theorem baudDiv_i_toNat {r : Word} (clk : Nat) (hr : r ≠ 0#32) :
    (baudDiv clk r).i.toNat = min (baudQuotient clk r.toNat) 65535 := by
  have hlt : min (baudQuotient clk r.toNat) 65535 < 2 ^ 16 := by omega
  rw [baudDiv, if_neg hr]
  exact Nat.mod_eq_of_lt hlt

theorem baudDiv_f_toNat {r : Word} (clk : Nat) (hr : r ≠ 0#32) :
    (baudDiv clk r).f.toNat = baudRounded clk r.toNat % 64 := by
  have hmask : baudRounded clk r.toNat &&& 0x3F = baudRounded clk r.toNat % 64 :=
    Nat.and_two_pow_sub_one_eq_mod _ 6
  rw [baudDiv, if_neg hr, BitVec.toNat_ofNat, hmask, Nat.mod_mod]

theorem baudDiv_zero_accept (clk : Nat) : (baudDiv clk 0#32).accept = false :=
  (baudDiv_rejects_iff clk 0#32).2 (.inl rfl)

/-- A rate other than 0 is accepted when its divisor is neither zero nor saturated
(42_baud_divisor R159). -/
theorem baudDiv_accept_iff {r : Word} (clk : Nat) (hr : r ≠ 0#32) :
    (baudDiv clk r).accept = true ↔
      (baudDiv clk r).i.toNat ≠ 0 ∧ (baudDiv clk r).i.toNat ≠ 65535 := by
  rw [← Bool.not_eq_false, baudDiv_rejects_iff, ← BitVec.toNat_inj (y := 0#16),
    ← BitVec.toNat_inj (y := 0xFFFF#16)]
  simp [hr]

/-! ## The statements -/

/-- Settles O11: the outputs' values, and the bounds of `T` and `H`. -/
theorem divisorFormula : Obligations.DivisorFormula := by
  refine fun clk r => ⟨fun hr => hr ▸ baudDiv_zero_accept clk, fun hr => ?_⟩
  have hpos : 0 < r.toNat := BitVec.toNat_pos_of_ne_zero hr
  have hH := baudRounded_le clk hpos
  have hF := baudDiv_f_toNat clk hr
  rw [baudRounded_eq] at hH hF
  exact ⟨baudDiv_i_toNat clk hr, baudScaled_le clk hpos, baudScaled_eq_fraction clk r.toNat, hH, hF,
    baudDiv_accept_iff clk hr⟩

/-- Settles O13: the quotient is not zero up to the upper bound and not saturated above the lower one;
`R = 0` is rejected and below the range. -/
theorem acceptedRange : Obligations.AcceptedRange := by
  intro clk r
  by_cases hr : r = 0#32
  · subst hr
    simp [baudDiv_zero_accept]
  · have hpos : 0 < r.toNat := BitVec.toNat_pos_of_ne_zero hr
    rw [baudDiv_accept_iff clk hr, baudDiv_i_toNat clk hr, ← baudQuotient_ne_zero_iff clk hpos,
      ← baudQuotient_lt_iff clk hpos (by decide)]
    omega

/-- Settles O12: `T = 127` gives `H = 64`, which the mask sends to 0; `I` does not depend on `T`. -/
theorem fractionWrapDoesNotCarry : Obligations.FractionWrapDoesNotCarry := by
  intro clk r hr hT
  have hscaled : baudScaled clk r.toNat = 127 := hT
  have hrounded : baudRounded clk r.toNat = 64 := by rw [baudRounded_eq, hscaled]
  have hF : (baudDiv clk r).f.toNat = 0 := by rw [baudDiv_f_toNat clk hr, hrounded]
  exact ⟨BitVec.eq_of_toNat_eq hF, baudDiv_i_toNat clk hr⟩

/-- Settles O14: BAUD_DIV evaluated on each row of the table. -/
theorem workedDivisors : Obligations.WorkedDivisors := by
  unfold Obligations.WorkedDivisors
  decide

end Sys2Proof.Machine
end

section
/-! The live window, oldest byte first (10_state R26, 43_ring_buffer R170): what READ takes off its front and
RECEIVE puts at its end, and the ring buffer's order, kept by every step (43_ring_buffer R180). -/

namespace Sys2Proof.Machine

/-! ## The window's slots -/

/-- The live slots, counted from the head READ leaves, are those after the first. -/
theorem State.slot_nextHead {s : State} (hwf : s.cfg.wf) (i : Nat) :
    (s.nextHead.toNat + i) % s.cfg.n = (s.head.toNat + (i + 1)) % s.cfg.n := by
  obtain ⟨hn1, hn⟩ := capacity_of_wf hwf
  rw [s.nextHead_toNat hn1 hn, Nat.mod_add_mod, Nat.add_assoc, Nat.add_comm 1 i]

/-- With room, the producer's slot is no live one: two offsets below `N` name two slots. -/
theorem State.slot_ne_tailSlot {s : State} (hroom : s.count.toNat < s.cfg.n) {i : Nat}
    (hi : i < s.count.toNat) : (s.head.toNat + i) % s.cfg.n ≠ s.tailSlot := by
  intro hslot
  have hmod : i % s.cfg.n = s.count.toNat % s.cfg.n := Nat.ModEq.add_left_cancel' s.head.toNat hslot
  rw [Nat.mod_eq_of_lt (hi.trans hroom), Nat.mod_eq_of_lt hroom] at hmod
  exact hi.ne hmod

/-! ## The window -/

theorem State.length_window (s : State) : s.window.length = s.count.toNat := by
  rw [State.window, List.length_map, List.length_range]

theorem State.window_of_empty {s : State} (h : s.count = 0#16) : s.window = [] :=
  List.eq_nil_of_length_eq_zero (by rw [s.length_window, h]; rfl)

/-- The pointer word READ writes takes the byte of slot `head` off the window. -/
theorem State.window_eq_cons {s : State} (hwf : s.cfg.wf) (hc : s.count ≠ 0#16)
    (hh : s.head.toNat < s.cfg.n) :
    s.window = s.buf.read s.head.toNat :: (s.setPtrs s.nextHead (s.count - 1#16)).window := by
  rw [State.window, ← State.count_pred hc, List.range_succ_eq_map, List.map_cons, List.map_map,
    Nat.add_zero, Nat.mod_eq_of_lt hh]
  refine congrArg _ ?_
  rw [State.window, State.setPtrs_head, State.setPtrs_count, State.setPtrs_buf, State.setPtrs_cfg]
  exact List.map_congr_left fun i _ => congrArg s.buf.read (State.slot_nextHead hwf i).symm

/-- RECEIVE with room puts its byte at the window's end. -/
theorem State.window_push {s : State} (hwf : s.cfg.wf) (hroom : s.count.toNat < s.cfg.n) (b : Byte) :
    (State.setPtrs { s with buf := s.buf.write s.tailSlot b } s.head (s.count + 1#16)).window =
      s.window ++ [some b] := by
  rw [State.window, State.setPtrs_head, State.setPtrs_count, State.setPtrs_buf, State.setPtrs_cfg,
    State.count_succ hroom (capacity_of_wf hwf).2, List.range_succ, List.map_append]
  refine congrArg₂ _ (List.map_congr_left fun i hi => ?_) ?_
  · exact Memory.read_write_other _ _ (State.slot_ne_tailSlot hroom (List.mem_range.1 hi))
  · exact congrArg (fun x => [x]) (Memory.read_write_same _ _ _)

/-! ## The order -/

theorem Fifo.ofEmptied {t : State} (hc : t.count = 0#16) (ha : t.accepted = []) (hr : t.returned = []) :
    Fifo t := by
  rw [Fifo, State.window_of_empty hc, ha, hr]
  exact ⟨rfl, List.nil_sublist _⟩

/-- READ of a byte moves it from the window's front to the end of what READ returned. -/
theorem Fifo.dequeue {s t : State} {w : Word} (hf : Fifo s) (hs : Sound s)
    (h : s.dequeue = some (w, t)) : Fifo t := by
  rcases State.dequeue_cases h with ⟨-, -, rfl⟩ | ⟨hc, hh, b, d, -, hb, rfl⟩
  · exact hf
  · have hpos : 0 < s.count.toNat := by have := State.count_pred hc; omega
    have hlive := hs.liveWritten 0 hpos
    rw [Nat.add_zero, Nat.mod_eq_of_lt hh] at hlive
    obtain ⟨x, hx⟩ := Option.isSome_iff_exists.1 hlive
    obtain ⟨rfl, -⟩ := hb x hx
    obtain ⟨horder, hsub⟩ := hf
    rw [State.window_eq_cons hs.cfgOk hc hh, hx] at horder
    refine ⟨?_, hsub⟩
    rw [← horder, List.map_append, List.append_assoc]
    rfl

/-- DISPATCH drops the waiting byte, or puts it at the end of the window and of what was accepted. -/
theorem Fifo.deliver {s : State} (hf : Fifo s) (hs : Sound s) (h : s.dispatchEnabled = true) :
    Fifo s.deliver := by
  obtain ⟨horder, hsub⟩ := hf
  obtain ⟨b, -, ⟨-, e⟩ | ⟨hc, e⟩⟩ := State.deliver_cases h <;> rw [e]
  · exact ⟨horder, hsub.trans (List.sublist_append_left _ _)⟩
  · have hroom : s.count.toNat < s.cfg.n := Nat.lt_of_le_of_ne hs.countLe hc
    refine ⟨?_, hsub.append (List.Sublist.refl [b])⟩
    rw [List.map_append, ← horder, List.append_assoc]
    exact congrArg _ (State.window_push hs.cfgOk hroom b)

/-- Of the foreground's moves only O10, K3 and READ reach the ring buffer or its histories. -/
theorem Fifo.fgMove {s t : State} (hf : Fifo s) (hs : Sound s) (h : FgMove s t) : Fifo t := by
  cases h with
  | openMicro k r i f hk =>
    cases k with
    | o3 | o4 | o5 | o6 | o7 | o11 => exact hf
    | o8 => rw [State.openMicro_o8]; exact hf
    | o9 => rw [State.openMicro_o9]; exact hf
    | o10 => exact .ofEmptied s.emptyRing_count rfl rfl
  | closeMicro k hk =>
    cases k with
    | k2 => exact hf
    | k3 => exact .ofEmptied s.emptyRing_count rfl rfl
  | stay | answer | latchZero | openAccept | openReject | close => exact hf
  | pop hq w u hd l a hl =>
    have hu : Fifo u := hf.dequeue hs hd
    exact hu
  | transmit hq b l a hl =>
    obtain ⟨_, _, _, _, -, e⟩ := s.transmit_frame b
    rw [e]
    exact hf
  | lineOn hq irq => rcases s.lineOn_cases irq with e | e <;> rw [e] <;> exact hf
  | lineOff hq irq => rcases s.lineOff_cases irq with e | e <;> rw [e] <;> exact hf
  | bindLine hq irq g => rcases s.bindLine_cases irq g with e | e <;> rw [e] <;> exact hf

/-- Settles O55: move by move; READ takes from the window's front, DISPATCH adds at its end, and O10, K3 and
RESET begin with nothing. -/
theorem stepKeepsFifo : Obligations.StepKeepsFifo := by
  intro s t hs hf hstep
  have hs' : Sound s.nextTurn.2 := by rw [s.nextTurn_snd]; exact { hs with }
  have hf' : Fifo s.nextTurn.2 := by rw [s.nextTurn_snd]; exact hf
  cases step_cases hstep with
  | fg ht h hi => exact hf'.fgMove hs' h
  | fgIssue ht op ops hq hl hh hi h =>
    have hops : Sound { s.nextTurn.2 with host := ops } := { hs' with }
    have hfops : Fifo { s.nextTurn.2 with host := ops } := hf'
    exact hfops.fgMove hops h
  | dispatch ht h => exact hf'.deliver hs' h
  | passes | received | overrun | emitted => exact hf'
  | reset ht => exact .ofEmptied (State.resetWith_count s.nextTurn.2.cfg) rfl rfl

end Sys2Proof.Machine
end

section
/-! The ring buffer's operations: RECEIVE, READ, AVAILABLE and READ_INTO (43_ring_buffer R171 to R181). -/

namespace Sys2Proof.Machine

/-! ## RECEIVE -/

theorem exec_receive_room {s : State} (h : s.count.toNat ≠ s.cfg.n) (b : Byte) :
    exec (.receive b) s = .next { s with
      hc := packHc s.head (s.count + 1#16), buf := s.buf.write s.tailSlot b,
      offered := s.offered ++ [b], accepted := s.accepted ++ [b], answer := .accepted true } := by
  rw [exec, execReceive, State.enqueue_room h]
  rfl

theorem exec_receive_full {s : State} (h : s.count.toNat = s.cfg.n) (b : Byte) :
    exec (.receive b) s = .next { s with
      overrunCount := satIncr s.overrunCount, offered := s.offered ++ [b],
      answer := .accepted false } := by
  rw [exec, execReceive, State.enqueue_full h]
  rfl

/-- The pointer word RECEIVE writes: the head where it was, the count one higher. -/
theorem State.ptrs_of_push {s t : State} (hwf : s.cfg.wf) (hroom : s.count.toNat < s.cfg.n)
    (ht : t.hc = packHc s.head (s.count + 1#16)) :
    t.head = s.head ∧ t.count.toNat = s.count.toNat + 1 := by
  rw [State.head, State.count, ht, packHc_head, packHc_count]
  exact ⟨rfl, State.count_succ hroom (capacity_of_wf hwf).2⟩

/-- Settles O23: the two branches of RECEIVE, and read after write in the storage. -/
theorem receiveStoresOrDrops : Obligations.ReceiveStoresOrDrops := by
  refine fun s b hwf => ⟨fun hroom => ?_, fun hfull => ?_⟩
  · obtain ⟨hhead, hcount⟩ := State.ptrs_of_push (t := { s with hc := _ }) hwf hroom rfl
    exact ⟨_, exec_receive_room hroom.ne b, rfl, hhead, hcount, Memory.read_write_same _ _ _,
      fun a ha => Memory.read_write_other _ _ ha, rfl⟩
  · exact ⟨_, satIncr_toNat s.overrunCount, exec_receive_full hfull b⟩

/-- RECEIVE of bytes there is room for accepts every one (43_ring_buffer R179). -/
theorem receiveAll_of_room {bs : List Byte} : ∀ {s : State}, s.cfg.wf →
    s.count.toNat + bs.length ≤ s.cfg.n →
      ∃ t, receiveAll bs s = .next t ∧ t.cfg = s.cfg ∧ t.count.toNat = s.count.toNat + bs.length := by
  induction bs with
  | nil => exact fun _ _ => ⟨_, rfl, rfl, rfl⟩
  | cons b bs ih =>
    intro s hwf hlen
    rw [List.length_cons] at hlen ⊢
    have hroom : s.count.toNat < s.cfg.n := by omega
    obtain ⟨u, hu, hcfg, hcount⟩ : ∃ u, exec (.receive b) s = .next u ∧ u.cfg = s.cfg ∧
        u.count.toNat = s.count.toNat + 1 :=
      ⟨_, exec_receive_room hroom.ne b, rfl, (State.ptrs_of_push hwf hroom rfl).2⟩
    obtain ⟨t, ht, htcfg, htcount⟩ := ih (s := u) (hcfg ▸ hwf) (by rw [hcount, hcfg]; omega)
    exact ⟨t, by rw [receiveAll, hu]; exact ht, htcfg.trans hcfg, by omega⟩

/-- Settles O29: `N` bytes find room one after the other, and the next one finds the buffer full. -/
theorem capacityIsExactlyN : Obligations.CapacityIsExactlyN := by
  intro s bs b hwf hempty hlen
  have hzero : s.count.toNat = 0 := by rw [hempty]; rfl
  obtain ⟨t, ht, hcfg, hcount⟩ := receiveAll_of_room (bs := bs) hwf (by omega)
  have hn : t.count.toNat = s.cfg.n := by omega
  exact ⟨t, _, ht, hn, exec_receive_full (hn.trans (congrArg Config.n hcfg.symm)) b, rfl, rfl,
    fun _ => rfl⟩

/-! ## READ and AVAILABLE -/

theorem exec_read_of_free {s : State} (hq : s.seq = .idle) (hl : s.loop = .quiet) :
    exec .read s = readPop s :=
  whenFree_of_free hq hl _

/-- Settles O24: READ's word takes no operand, and READ is its transaction's two cases. -/
theorem readDequeuesByte : Obligations.ReadDequeuesByte := by
  refine ⟨fun d => decode_pattern_append rfl BitVec.and_zero, fun s hq hl hwf => ?_⟩
  rw [exec_read_of_free hq hl]
  refine ⟨readPop_empty, fun x hc hh hx => ?_⟩
  obtain ⟨b, d, hb, hpop⟩ := readPop_byte hc hh
  obtain ⟨rfl, rfl⟩ := hb x hx
  obtain ⟨hhead, hcount⟩ := State.ptrs_of_pop (t := { s with hc := _ }) hwf hc rfl
  exact ⟨_, hpop, rfl, hhead, hcount, rfl⟩

/-- Settles O25: AVAILABLE's word takes no operand, and the count fits the word it is answered in. -/
theorem availableAnswersCount : Obligations.AvailableAnswersCount := by
  refine ⟨fun d => decode_pattern_append rfl BitVec.and_zero, fun s hq hl => ?_⟩
  exact ⟨s.count.setWidth 32, BitVec.toNat_setWidth_of_le (by decide), whenFree_of_free hq hl _⟩

/-! ## READ_INTO, one iteration at a time -/

theorem exec_readInto_of_free {s : State} {out : List Byte} {max : Nat} (hq : s.seq = .idle)
    (hl : s.loop = .quiet) (hlen : max ≤ out.length) :
    exec (.readInto out max) s = readIntoTurn out max 0 s := by
  rw [exec, execReadInto, whenFree_of_free hq hl, if_pos hlen]

/-- Settles O27: the free foreground's call fails its one test. -/
theorem readIntoNeedsRoom : Obligations.ReadIntoNeedsRoom := by
  intro s out max hq hl hlen
  rw [exec, execReadInto, whenFree_of_free hq hl, if_neg (Nat.not_le.2 hlen)]

/-- Every iteration goes through wherever `head` is a slot. -/
theorem readIntoTurn_isNext {s : State} (hh : s.head.toNat < s.cfg.n) (out : List Byte) (max n : Nat) :
    ∃ t, readIntoTurn out max n s = .next t := by
  obtain ⟨w, u, hd⟩ := State.dequeue_isSome hh
  simp only [readIntoTurn, hd]
  split
  · split
    · split
      · exact ⟨_, rfl⟩
      · exact ⟨_, rfl⟩
    · exact ⟨_, rfl⟩
  · exact ⟨_, rfl⟩

/-- No byte asked for: the call returns at once. -/
theorem readIntoTurn_done {s t : State} {out : List Byte} {max n : Nat} (hn : ¬ n < max)
    (h : readIntoTurn out max n s = .next t) :
    t = { s with answer := .copied n out, loop := .quiet } := by
  rw [readIntoTurn, if_neg hn] at h
  cases h
  rfl

/-- The buffer empty: the call returns what it has. -/
theorem readIntoTurn_empty {s t : State} {out : List Byte} {max n : Nat} (hn : n < max)
    (h : readIntoTurn out max n s = .next t) (hc : s.count = 0#16) :
    t = { s with answer := .copied n out, loop := .quiet } := by
  rcases readIntoTurn_cases hn h with ⟨-, ht⟩ | ⟨hne, -⟩
  · exact ht
  · exact absurd hc hne

/-- A byte there: it is taken as READ takes it, into the next place of the caller's buffer. -/
theorem readIntoTurn_takes {s t : State} {out : List Byte} {max n : Nat} {x : Byte} (hn : n < max)
    (h : readIntoTurn out max n s = .next t) (hc : s.count ≠ 0#16)
    (hx : s.buf.read s.head.toNat = some x) :
    t = { s with
      hc := packHc s.nextHead (s.count - 1#16)
      returned := s.returned ++ [x]
      answer := if n + 1 < max then .rdata (validWord x) else .copied (n + 1) (out.set n x)
      loop := if n + 1 < max then .readInto (out.set n x) max (n + 1) else .quiet } := by
  rcases readIntoTurn_cases hn h with ⟨hempty, -⟩ | ⟨-, b, d, hb, ht⟩
  · exact absurd hempty hc
  · obtain ⟨rfl, rfl⟩ := hb x hx
    exact ht

/-- What the iteration that takes a byte leaves, by the byte it was. -/
theorem readIntoTurn_takes_fields {s t : State} {out : List Byte} {max n : Nat} {x : Byte}
    (hwf : s.cfg.wf) (hn : n < max) (h : readIntoTurn out max n s = .next t) (hc : s.count ≠ 0#16)
    (hx : s.buf.read s.head.toNat = some x) :
    t.head.toNat = (s.head.toNat + 1) % s.cfg.n ∧ t.count.toNat + 1 = s.count.toNat ∧
      (n + 1 = max → t.answer = .copied (n + 1) (out.set n x) ∧ t.loop = .quiet) ∧
      (n + 1 < max → t.loop = .readInto (out.set n x) max (n + 1)) ∧
      t = { s with hc := t.hc, answer := t.answer, returned := s.returned ++ [x],
                   loop := t.loop } := by
  have ht := readIntoTurn_takes hn h hc hx
  obtain ⟨hhead, hcount⟩ := State.ptrs_of_pop hwf hc (congrArg State.hc ht)
  refine ⟨hhead, hcount, fun hlast => ?_, fun hmore => ?_, ?_⟩
  · rw [ht]
    exact ⟨if_neg hlast.not_lt, if_neg hlast.not_lt⟩
  · rw [ht]
    exact if_pos hmore
  · rw [ht]

/-- Settles O26: the first iteration and each later one are one iteration of the loop, from 0 and from `n`. -/
theorem readIntoStarts : Obligations.ReadIntoStarts := by
  refine fun s out max hq hwf hh => ⟨fun hl hlen => ?_, fun n hl hn => ?_⟩
  · obtain ⟨t, ht⟩ := readIntoTurn_isNext hh out max 0
    rw [exec_readInto_of_free hq hl hlen]
    have hquiet : { s with answer := .copied 0 out, loop := .quiet } =
        { s with answer := .copied 0 out } := by rw [← hl]
    refine ⟨t, ht, fun hzero => (readIntoTurn_done hzero.not_gt ht).trans hquiet,
      fun hpos hc => (readIntoTurn_empty hpos ht hc).trans hquiet, fun x hpos hc hx => ?_⟩
    obtain ⟨hhead, hcount, hlast, hmore, hframe⟩ := readIntoTurn_takes_fields hwf hpos ht hc hx
    exact ⟨hhead, hcount, fun hone => hlast hone.symm, hmore, hframe⟩
  · obtain ⟨t, ht⟩ := readIntoTurn_isNext hh out max n
    rw [stepFG_readInto hq hl]
    exact ⟨t, ht, readIntoTurn_empty hn ht, fun _ => readIntoTurn_takes_fields hwf hn ht⟩

end Sys2Proof.Machine
end

section
/-! READ_INTO alone on a quiet line (43_ring_buffer R176, R181): it drains the live window into the caller's
buffer. -/

namespace Sys2Proof.Machine

/-! ## The caller's buffer -/

/-- The caller's buffer once the loop has copied `bs` to the places from `n` on. -/
def copyInto : List Byte → Nat → List Byte → List Byte
  | out, _, [] => out
  | out, n, b :: bs => copyInto (out.set n b) (n + 1) bs

/-- The copied bytes stand between what was before them and what is behind. -/
theorem copyInto_eq {bs : List Byte} : ∀ {out : List Byte} {n : Nat}, n + bs.length ≤ out.length →
    copyInto out n bs = out.take n ++ bs ++ out.drop (n + bs.length) := by
  induction bs with
  | nil =>
    intro out n _
    rw [copyInto, List.append_nil, List.length_nil, Nat.add_zero, List.take_append_drop]
  | cons b bs ih =>
    intro out n hlen
    rw [List.length_cons] at hlen ⊢
    have hn : n < out.length := by omega
    have htake : (out.set n b).take (n + 1) = out.take n ++ [b] := by
      rw [← List.take_append_getElem (by rwa [List.length_set]), List.getElem_set_self,
        List.take_set_of_le (Nat.le_refl n)]
    have hdrop : (out.set n b).drop (n + 1 + bs.length) = out.drop (n + 1 + bs.length) :=
      List.drop_set_of_lt (by omega)
    rw [copyInto, ih (by rw [List.length_set]; omega), htake, hdrop, Nat.add_right_comm n 1,
      Nat.add_assoc n, List.append_assoc (out.take n)]
    rfl

/-! ## The drain -/

/-- The foreground, alone on a quiet line, with the bytes `bs` in the buffer. -/
structure Draining (s : State) (bs : List Byte) : Prop where
  cfgOk : s.cfg.wf
  headLt : s.head.toNat < s.cfg.n
  seqIdle : s.seq = .idle
  quietLine : s.sched = []
  window_eq : s.window = bs.map some

theorem Draining.count_toNat {s : State} {bs : List Byte} (hd : Draining s bs) :
    s.count.toNat = bs.length := by
  rw [← s.length_window, hd.window_eq, List.length_map]

theorem Draining.count_eq_zero_iff {s : State} {bs : List Byte} (hd : Draining s bs) :
    s.count = 0#16 ↔ bs = [] := by
  rw [← BitVec.toNat_inj, hd.count_toNat]
  exact List.length_eq_zero_iff

/-- An iteration takes the oldest byte, and the others are left. -/
theorem Draining.takes {s t : State} {b : Byte} {bs : List Byte} (hd : Draining s (b :: bs))
    {out : List Byte} {max n : Nat} (hn : n < max) (h : readIntoTurn out max n s = .next t) :
    Draining t bs ∧ t.host = s.host ∧ t.lastResult = s.lastResult ∧
      (n + 1 = max → t.answer = .copied (n + 1) (out.set n b) ∧ t.loop = .quiet) ∧
      (n + 1 < max → t.loop = .readInto (out.set n b) max (n + 1)) := by
  have hc : s.count ≠ 0#16 := mt hd.count_eq_zero_iff.1 (List.cons_ne_nil b bs)
  obtain ⟨hx, hrest⟩ :=
    List.cons.inj ((State.window_eq_cons hd.cfgOk hc hd.headLt).symm.trans hd.window_eq)
  obtain ⟨hhead, -, hlast, hmore, -⟩ := readIntoTurn_takes_fields hd.cfgOk hn h hc hx
  have ht := readIntoTurn_takes hn h hc hx
  have hcfg : t.cfg = s.cfg := by rw [ht]
  refine ⟨⟨hcfg ▸ hd.cfgOk, ?_, (congrArg State.seq ht).trans hd.seqIdle,
    (congrArg State.sched ht).trans hd.quietLine, (congrArg State.window ht).trans hrest⟩,
    by rw [ht], by rw [ht], hlast, hmore⟩
  rw [hhead, hcfg]
  exact Nat.mod_lt _ (capacity_of_wf hd.cfgOk).1

/-- The loop's remaining iterations, the next one `s`'s next step: each takes the oldest byte, until the
last one asked for is taken or a READ finds nothing. -/
theorem run_readInto_drains {bs : List Byte} : ∀ {s u : State} {out : List Byte} {max n : Nat},
    step s = readIntoTurn out max n u → Draining u bs → n < max →
      ∃ t, Host.Core.run core (min (max - n) (bs.length + 1)) s = .next t ∧
        t.answer = .copied (n + min (max - n) bs.length) (copyInto out n (bs.take (max - n))) ∧
        t.loop = .quiet ∧ t.host = u.host ∧ t.lastResult = u.lastResult ∧
        t.window = (bs.drop (max - n)).map some := by
  induction bs with
  | nil =>
    intro s u out max n hstep hd hn
    obtain ⟨t, ht⟩ := readIntoTurn_isNext hd.headLt out max n
    have hreturns := readIntoTurn_empty hn ht (hd.count_eq_zero_iff.2 rfl)
    have hone : 0 + 1 ≤ max - n := Nat.sub_pos_of_lt hn
    rw [List.length_nil, Nat.min_eq_right hone, run_succ_of_step (hstep.trans ht), Nat.min_zero,
      List.take_nil, List.drop_nil]
    refine ⟨t, rfl, ?_⟩
    rw [hreturns]
    exact ⟨rfl, rfl, rfl, rfl, hd.window_eq⟩
  | cons b bs ih =>
    intro s u out max n hstep hd hn
    obtain ⟨u', hu'⟩ := readIntoTurn_isNext hd.headLt out max n
    obtain ⟨hd', hhost, hresult, hlast, hmore⟩ := hd.takes hn hu'
    obtain ⟨m, hm⟩ : ∃ m, max - n = m + 1 := ⟨max - n - 1, by omega⟩
    rw [hm, List.length_cons, Nat.add_min_add_right, run_succ_of_step (hstep.trans hu'),
      List.take_succ_cons, List.drop_succ_cons, copyInto, Nat.add_min_add_right, ← hhost, ← hresult]
    rcases Nat.lt_or_ge (n + 1) max with hn' | hn'
    · have hloop := hmore hn'
      obtain rfl : m = max - (n + 1) := by omega
      have hstep' : step u' = readIntoTurn (out.set n b) max (n + 1) u' := by
        rw [step_idleSchedule hd'.quietLine, stepFG_readInto hd'.seqIdle hloop]
      obtain ⟨t, hrun, hanswer, hrest⟩ := ih hstep' hd' hn'
      exact ⟨t, hrun, by rw [hanswer, Nat.add_right_comm, Nat.add_assoc], hrest⟩
    · obtain ⟨hanswer, hquiet⟩ := hlast (by omega)
      obtain rfl : m = 0 := by omega
      rw [Nat.zero_min, Nat.zero_min]
      exact ⟨u', rfl, hanswer, hquiet, rfl, rfl, hd'.window_eq⟩

/-- Settles O28: the call's first iteration is the step that issues it, and the drain does the rest. -/
theorem readIntoDrainsQuietLine : Obligations.ReadIntoDrainsQuietLine := by
  intro s out bs max ops hs hq hl hsched hhost hlen hpos hwindow
  have hd : Draining { s with host := ops } bs := ⟨hs.cfgOk, hs.headLt, hq, hsched, hwindow⟩
  have hstep : step s = readIntoTurn out max 0 { s with host := ops } := by
    rw [step_idleSchedule hsched, stepFG_issue hq hl hhost]
    exact exec_readInto_of_free hq hl hlen
  obtain ⟨t, hrun, hanswer, hquiet, hops, hresult, hrest⟩ := run_readInto_drains hstep hd hpos
  rw [Nat.sub_zero] at hrun hanswer hrest
  refine ⟨t, hrun, ?_, hquiet, hops, hrest, ?_, hresult⟩
  · rw [hanswer, Nat.zero_add, copyInto_eq (by rw [List.length_take]; omega), List.length_take,
      Nat.zero_add, List.take_zero, List.nil_append]
  · rw [← t.length_window, hrest, List.length_map, List.length_drop]

end Sys2Proof.Machine
end

section
/-! The transmit path stays faithful until an overlap (44_transmit R192, R196, R197). -/

namespace Sys2Proof.Machine

/-- WRITE leaves the path as it is, puts its byte at the end of both sides, or corrupts. -/
theorem TxFaithful.transmit {s : State} (hf : TxFaithful s) (b : Byte) : TxFaithful (s.transmit b) := by
  rcases s.transmit_cases b with ⟨-, e⟩ | ⟨-, hempty, e⟩ | ⟨-, -, x, e⟩ <;> rw [e]
  · exact hf
  · intro hc
    have hlog : s.txLog = s.txSeq := by simpa [hempty] using hf hc
    exact congrArg (· ++ [b]) hlog
  · exact nofun

/-- TX_EMIT moves the byte that waits to the end of the log. -/
theorem TxFaithful.emit {s : State} (hf : TxFaithful s) {b : Byte} (hb : s.txHold = some b) :
    TxFaithful { s with txLog := s.txLog ++ [b], txHold := none } := by
  intro hc
  have hlog : s.txLog ++ [b] = s.txSeq := by simpa [hb] using hf hc
  exact (List.append_nil _).trans hlog

theorem TxFaithful.deliver {s : State} (hf : TxFaithful s) (h : s.dispatchEnabled = true) :
    TxFaithful s.deliver := by
  obtain ⟨b, -, ⟨-, e⟩ | ⟨-, e⟩⟩ := State.deliver_cases h <;> rw [e] <;> exact hf

/-- Of the foreground's moves only WRITE reaches the transmit path. -/
theorem TxFaithful.fgMove {s t : State} (hf : TxFaithful s) (h : FgMove s t) : TxFaithful t := by
  cases h with
  | openMicro k r i f hk =>
    cases k with
    | o3 | o4 | o5 | o6 | o7 | o10 | o11 => exact hf
    | o8 => rw [State.openMicro_o8]; exact hf
    | o9 => rw [State.openMicro_o9]; exact hf
  | closeMicro k hk =>
    cases k with
    | k2 | k3 => exact hf
  | stay | answer | latchZero | openAccept | openReject | close => exact hf
  | pop hq w u hd l a hl =>
    obtain ⟨_, _, _, _, rfl⟩ := State.dequeue_frame hd
    exact hf
  | transmit hq b l a hl =>
    have hwrite : TxFaithful (s.transmit b) := hf.transmit b
    exact hwrite
  | lineOn hq irq => rcases s.lineOn_cases irq with e | e <;> rw [e] <;> exact hf
  | lineOff hq irq => rcases s.lineOff_cases irq with e | e <;> rw [e] <;> exact hf
  | bindLine hq irq g => rcases s.bindLine_cases irq g with e | e <;> rw [e] <;> exact hf

/-- Settles O36: move by move; only WRITE and TX_EMIT reach the path, and RESET begins with nothing. -/
theorem stepKeepsTransmitFaithful : Obligations.StepKeepsTransmitFaithful := by
  intro s t hf hstep
  have hf' : TxFaithful s.nextTurn.2 := by rw [s.nextTurn_snd]; exact hf
  cases step_cases hstep with
  | fg ht h hi => exact hf'.fgMove h
  | fgIssue ht op ops hq hl hh hi h =>
    have hops : TxFaithful { s.nextTurn.2 with host := ops } := hf'
    exact hops.fgMove h
  | dispatch ht h => exact hf'.deliver h
  | passes | received | overrun => exact hf'
  | emitted b ht hb =>
    rw [show s.txLog = s.nextTurn.2.txLog by rw [s.nextTurn_snd]]
    exact hf'.emit hb
  | reset ht => exact fun _ => rfl

end Sys2Proof.Machine
end

section
/-! The transmit operations WRITE, WRITE_BUF and TX_EMIT (44_transmit R191 to R193, R196), and the stubs
FLUSH, ADD_RECEIVE_HANDLER and CLEAR_RECEIVE_HANDLERS (44_transmit R194, 45_binding R205, R206). -/

namespace Sys2Proof.Machine

/-! ## WRITE -/

theorem State.txEnabled_iff (s : State) :
    s.txEnabled = true ↔ s.cr.getLsbD 0 = true ∧ s.cr.getLsbD 8 = true :=
  Bool.and_eq_true_iff

theorem State.transmit_disabled {s : State} (h : s.txEnabled = false) (b : Byte) :
    s.transmit b = { s with lastResult := 1#32 } := by
  rw [State.transmit, h]
  rfl

theorem State.transmit_room {s : State} (h : s.txEnabled = true) (hempty : s.txHold = none) (b : Byte) :
    s.transmit b =
      { s with txHold := some b, lastResult := 1#32, txSeq := s.txSeq ++ [b] } := by
  rw [State.transmit, if_pos h, hempty]
  rfl

theorem State.transmit_overlap {s : State} {old : Byte} (h : s.txEnabled = true)
    (hold : s.txHold = some old) (b : Byte) :
    s.transmit b =
      { s with txHold := some (Config.freeByte s.draws), txCorrupt := true, lastResult := 1#32,
               txSeq := s.txSeq ++ [b], draws := s.draws + 1 } := by
  rw [State.transmit, if_pos h, hold]
  rfl

theorem exec_write_of_free {s : State} (hq : s.seq = .idle) (hl : s.loop = .quiet) (b : Byte) :
    exec (.write b) s = .next (s.transmit b) :=
  whenFree_of_free hq hl _

/-- Settles O31: WRITE's operand is the low byte of DATA, and the three cases are those of its
transaction. -/
theorem writeCases : Obligations.WriteCases := by
  refine ⟨fun d => decode_pattern_append rfl (and_lowBits d), fun s b hq hl => ?_⟩
  rw [exec_write_of_free hq hl]
  refine ⟨fun hu ht hempty => ?_, fun hoff => ?_, fun old hu ht hold => ?_⟩
  · rw [State.transmit_room (s.txEnabled_iff.2 ⟨hu, ht⟩) hempty]
  · rw [State.transmit_disabled (Bool.and_eq_false_iff.2 hoff)]
  · exact ⟨_, congrArg _ (State.transmit_overlap (s.txEnabled_iff.2 ⟨hu, ht⟩) hold b)⟩

/-! ## TX_EMIT -/

theorem exec_txEmit_waiting {s : State} {b : Byte} (h : s.txEnabled = true) (hb : s.txHold = some b) :
    exec .txEmit s = .next { s with txLog := s.txLog ++ [b], txHold := none } := by
  rw [exec, execTxEmit, if_pos h, hb]

theorem enabled_of_exec_txEmit {s t : State} (h : exec .txEmit s = .next t) :
    s.txHold ≠ none ∧ s.txEnabled = true := by
  rw [exec, execTxEmit] at h
  split at h
  · rename_i hen
    refine ⟨fun hempty => ?_, hen⟩
    rw [hempty] at h
    cases h
  · cases h

/-- Settles O32: the one branch of TX_EMIT that is not refused. -/
theorem emitMovesByteToWire : Obligations.EmitMovesByteToWire := by
  intro s
  refine ⟨⟨fun ⟨t, h⟩ => ?_, fun ⟨hwaits, hen⟩ => ?_⟩, fun b hb hu ht => ?_⟩
  · obtain ⟨hwaits, hen⟩ := enabled_of_exec_txEmit h
    exact ⟨hwaits, s.txEnabled_iff.1 hen⟩
  · obtain ⟨b, hb⟩ := Option.ne_none_iff_exists'.1 hwaits
    exact ⟨_, exec_txEmit_waiting (s.txEnabled_iff.2 hen) hb⟩
  · exact exec_txEmit_waiting (s.txEnabled_iff.2 ⟨hu, ht⟩) hb

/-! ## WRITE_BUF, one iteration at a time -/

theorem exec_writeBuf_of_free {s : State} (hq : s.seq = .idle) (hl : s.loop = .quiet)
    (bytes : List Byte) : exec (.writeBuf bytes) s = .next (s.writeBufTurn bytes bytes.length) :=
  whenFree_of_free hq hl _

/-- The foreground's position in a pseudo-operation is `l`. -/
def State.setLoop (s : State) (l : FgLoop) : State := { s with loop := l }

/-- WRITE does not look at the host's loop. -/
theorem State.transmit_setLoop (s : State) (l : FgLoop) (b : Byte) :
    (s.setLoop l).transmit b = (s.transmit b).setLoop l := by
  cases hen : s.txEnabled with
  | false =>
    rw [State.transmit_disabled hen, State.transmit_disabled (s := s.setLoop l) hen]
    rfl
  | true =>
    cases hh : s.txHold with
    | none =>
      rw [State.transmit_room hen hh, State.transmit_room (s := s.setLoop l) hen hh]
      rfl
    | some old =>
      rw [State.transmit_overlap hen hh, State.transmit_overlap (s := s.setLoop l) hen hh]
      rfl

/-- An iteration of WRITE_BUF is given what it needs of the loop, and says where the loop goes on. -/
theorem State.writeBufTurn_setLoop (s : State) (l : FgLoop) (rest : List Byte) (len : Nat) :
    (s.setLoop l).writeBufTurn rest len = s.writeBufTurn rest len := by
  match rest with
  | [] => rfl
  | [b] =>
    rw [State.writeBufTurn, State.transmit_setLoop]
    rfl
  | b :: c :: more =>
    rw [State.writeBufTurn, State.transmit_setLoop]
    rfl

/-- An iteration is WRITE of its byte by itself, and the return with the last one. -/
theorem State.writeBufTurn_of_quiet {s : State} (hl : s.loop = .quiet) (b : Byte) (more : List Byte)
    (len : Nat) :
    (more = [] → s.writeBufTurn (b :: more) len = { s.transmit b with answer := .value len }) ∧
    (more ≠ [] →
      s.writeBufTurn (b :: more) len = { s.transmit b with loop := .writeBuf more len }) := by
  match more with
  | [] =>
    have hquiet : (s.transmit b).loop = .quiet := (transmit_loop s b).trans hl
    exact ⟨fun _ => (State.eta_answer hquiet (.value len)).symm, fun h => absurd rfl h⟩
  | c :: more => exact ⟨nofun, fun _ => rfl⟩

/-- Settles O34: the first iteration starts quiet, and a later one does what it would do from there. -/
theorem writeBufStarts : Obligations.WriteBufStarts := by
  refine fun s bytes hq => ⟨fun hl => ⟨?_, ?_⟩, ?_⟩
  · rintro rfl
    rw [exec_writeBuf_of_free hq hl]
    exact congrArg _ (State.eta_answer hl (.value 0)).symm
  · rintro b more rfl
    obtain ⟨hlast, hmore⟩ := State.writeBufTurn_of_quiet hl b more (b :: more).length
    refine ⟨_, _, exec_write_of_free hq hl b, exec_writeBuf_of_free hq hl _, ?_, hmore⟩
    rintro rfl
    exact hlast rfl
  · rintro len b more hl rfl
    refine ⟨_, _, exec_write_of_free (s := s.setLoop .quiet) hq rfl b, stepFG_writeBuf hq hl, ?_⟩
    rw [← s.writeBufTurn_setLoop .quiet]
    exact State.writeBufTurn_of_quiet rfl b more len

/-! ## WRITE_BUF with nothing in between -/

/-- WRITEs in a row, one at least, touch the transmit side and `last_result`, and do not clear
`tx_corrupt`. -/
theorem State.foldl_transmit_frame {bs : List Byte} : ∀ (s : State) (b : Byte), ∃ c x d q,
    (s.txCorrupt = true → c = true) ∧ (b :: bs).foldl State.transmit s = { s with
      lastResult := 1#32, txCorrupt := c, txHold := x, draws := d, txSeq := q } := by
  induction bs with
  | nil => exact State.transmit_frame
  | cons b' bs ih =>
    intro s b
    obtain ⟨c, x, d, q, hc, e⟩ := s.transmit_frame b
    obtain ⟨c', x', d', q', hc', e'⟩ := ih (s.transmit b) b'
    rw [List.foldl_cons, e', e]
    rw [e] at hc'
    exact ⟨c', x', d', q', fun h => hc' (hc h), rfl⟩

/-- The second of two WRITEs with no TX_EMIT in between finds the first one's byte (44_transmit R192). -/
theorem State.transmit_transmit_corrupts {s : State} (h : s.txEnabled = true) (b c : Byte) :
    ((s.transmit b).transmit c).txCorrupt = true := by
  obtain ⟨y, hy⟩ : ∃ y, (s.transmit b).txHold = some y := by
    rcases s.transmit_cases b with ⟨hoff, -⟩ | ⟨-, -, e⟩ | ⟨-, -, x, e⟩
    · exact absurd (hoff.symm.trans h) Bool.false_ne_true
    · exact ⟨b, by rw [e]⟩
    · exact ⟨x, by rw [e]⟩
  have hen : (s.transmit b).txEnabled = true := by
    obtain ⟨_, _, _, _, -, e⟩ := s.transmit_frame b
    rw [e]
    exact h
  rw [State.transmit_overlap hen hy]

/-- Two WRITEs in a row corrupt, whatever is written after them. -/
theorem State.foldl_transmit_corrupts {s : State} (h : s.txEnabled = true) (b c : Byte)
    (bs : List Byte) : ((b :: c :: bs).foldl State.transmit s).txCorrupt = true := by
  have hsecond := State.transmit_transmit_corrupts h b c
  cases bs with
  | nil => exact hsecond
  | cons d bs =>
    obtain ⟨_, _, _, _, hstays, e⟩ := State.foldl_transmit_frame (bs := bs) ((s.transmit b).transmit c) d
    exact (congrArg State.txCorrupt e).trans (hstays hsecond)

/-- The loop's remaining iterations, nobody else moving, are the WRITEs of its bytes in turn. -/
theorem run_writeBuf {bs : List Byte} : ∀ {s u : State} {b : Byte} {len : Nat},
    step s = .next (u.writeBufTurn (b :: bs) len) → u.seq = .idle → u.sched = [] →
      Host.Core.run core (bs.length + 1) s =
        .next { (b :: bs).foldl State.transmit u with answer := .value len, loop := .quiet } := by
  induction bs with
  | nil =>
    intro s u b len hstep _ _
    exact run_succ_of_step hstep 0
  | cons c bs ih =>
    intro s u b len hstep hq hsched
    obtain ⟨_, _, _, _, -, e⟩ := u.transmit_frame b
    have hq' : (u.transmit b).seq = .idle := by rw [e]; exact hq
    have hsched' : (u.transmit b).sched = [] := by rw [e]; exact hsched
    have hstep' : step (u.writeBufTurn (b :: c :: bs) len) =
        .next ((u.transmit b).writeBufTurn (c :: bs) len) := by
      rw [step_idleSchedule (s := u.writeBufTurn (b :: c :: bs) len) hsched',
        stepFG_writeBuf (s := u.writeBufTurn (b :: c :: bs) len) hq' rfl]
      exact congrArg _ ((u.transmit b).writeBufTurn_setLoop _ _ _)
    rw [List.length_cons, run_succ_of_step hstep, ih hstep' hq' hsched']
    rfl

/-- Settles O35: the call is the WRITEs of its bytes in a row, and the second of them overlaps the first. -/
theorem writeBufWithoutPollingCorrupts : Obligations.WriteBufWithoutPollingCorrupts := by
  intro s bytes ops hq hl hsched hhost hne
  obtain ⟨b, bs, rfl⟩ := List.exists_cons_of_ne_nil hne
  have hstep : step s = .next ({ s with host := ops }.writeBufTurn (b :: bs) (b :: bs).length) := by
    rw [step_idleSchedule hsched, stepFG_issue hq hl hhost]
    exact exec_writeBuf_of_free (s := { s with host := ops }) hq hl _
  refine ⟨_, run_writeBuf hstep hq hsched, rfl, ?_⟩
  obtain ⟨_, _, _, _, -, e⟩ := State.foldl_transmit_frame (bs := bs) { s with host := ops } b
  refine ⟨by rw [e], rfl, by rw [e], by rw [e], fun hlen hu ht => ?_⟩
  cases bs with
  | nil => exact absurd hlen (Nat.not_succ_le_self 1)
  | cons c bs =>
    have hen : State.txEnabled { s with host := ops } = true := s.txEnabled_iff.2 ⟨hu, ht⟩
    exact State.foldl_transmit_corrupts hen b c bs

/-! ## The stubs -/

/-- Settles O38: the words of FLUSH and CLEAR_RECEIVE_HANDLERS take no operand, that of ADD_RECEIVE_HANDLER
all of DATA, and each does what its definition says to a free foreground. -/
theorem stubOperations : Obligations.StubOperations := by
  refine ⟨fun d => ⟨?_, ?_, ?_⟩, fun s cb hq hl => ⟨?_, ?_, ?_⟩⟩
  · exact decode_pattern_append rfl BitVec.and_zero
  · exact decode_pattern_append rfl (Laws.and_allBits d)
  · exact decode_pattern_append rfl BitVec.and_zero
  · exact whenFree_of_free hq hl _
  · exact whenFree_of_free hq hl _
  · exact whenFree_of_free hq hl _

end Sys2Proof.Machine
end

section
/-! The interrupt controller's binding calls (45_binding R201 to R203): on line IRQ, and on any other. -/

namespace Sys2Proof.Machine

/-! ## The binding calls, line by line -/

theorem State.lineOn_irq (s : State) : s.lineOn s.cfg.irq = { s with vicEnabled := true } :=
  if_pos rfl

theorem State.lineOn_of_ne {s : State} {irq : Nat} (h : irq ≠ s.cfg.irq) : s.lineOn irq = s :=
  if_neg h

theorem State.lineOff_irq (s : State) : s.lineOff s.cfg.irq = { s with vicEnabled := false } :=
  if_pos rfl

theorem State.lineOff_of_ne {s : State} {irq : Nat} (h : irq ≠ s.cfg.irq) : s.lineOff irq = s :=
  if_neg h

theorem State.bindLine_irq (s : State) (h : HandlerRef) :
    s.bindLine s.cfg.irq h = { s with vicHandler := some h } :=
  if_pos rfl

theorem State.bindLine_of_ne {s : State} {irq : Nat} (hne : irq ≠ s.cfg.irq) (h : HandlerRef) :
    s.bindLine irq h = s :=
  if_neg hne

/-- Settles O37: each call is its operation on the controller, whatever the foreground is doing, and the
operation asks only whether the line is IRQ. -/
theorem bindingCalls : Obligations.BindingCalls := by
  refine fun s irq h => ⟨?_, ?_, ?_, fun hne => ⟨?_, ?_, ?_⟩⟩
  · rintro rfl
    exact congrArg _ s.lineOn_irq
  · rintro rfl
    exact congrArg _ s.lineOff_irq
  · rintro rfl
    exact congrArg _ (s.bindLine_irq h)
  · exact congrArg _ (State.lineOn_of_ne hne)
  · exact congrArg _ (State.lineOff_of_ne hne)
  · exact congrArg _ (State.bindLine_of_ne hne h)

end Sys2Proof.Machine
end

section
/-! The observation reads (46_observation R215 to R221): the words take no operand, each read answers its
register, and STATUS is the list of its bits. -/

namespace Sys2Proof.Machine

/-! ## STATUS, bit by bit -/

/-- A word with one more bit below it has that bit in front of its list of bits. -/
theorem getLsbD_append_ofBool {n : Nat} {x : BitVec n} {bits : List Bool}
    (h : ∀ k, x.getLsbD k = bits.getD k false) (b : Bool) :
    ∀ k, (x ++ BitVec.ofBool b).getLsbD k = (b :: bits).getD k false
  | 0 => BitVec.getLsbD_concat_zero
  | k + 1 => BitVec.getLsbD_concat_succ.trans (h k)

/-- A word with a zero field below it has that many zeros in front of its list of bits. -/
theorem getLsbD_append_zeros {n : Nat} {x : BitVec n} {bits : List Bool}
    (h : ∀ k, x.getLsbD k = bits.getD k false) (m k : Nat) :
    (x ++ 0#m).getLsbD k = (List.replicate m false ++ bits).getD k false := by
  rw [BitVec.getLsbD_append]
  by_cases hk : k < m
  · rw [List.getD_append _ _ _ _ (by simpa using hk)]
    simp [hk]
  · rw [List.getD_append_right _ _ _ _ (by simpa using hk)]
    simp [hk, h]

/-- The bits of STATUS from bit 0 up (46_observation R216); the bits above the last are 0. -/
def State.statusLayout (s : State) : List Bool :=
  [s.flagOpen, s.flagRxne, s.flagRxfull, s.flagTxff, s.flagRxris, s.irqReq, false, false, s.txCorrupt,
    s.lineOverrun]

theorem State.statusWord_getLsbD (s : State) (k : Nat) :
    s.statusWord.getLsbD k = s.statusLayout.getD k false := by
  have reserved (j : Nat) : (0#22).getLsbD j = [].getD j false := BitVec.getLsbD_zero
  have from8 := getLsbD_append_ofBool (getLsbD_append_ofBool reserved s.lineOverrun) s.txCorrupt
  have from5 := getLsbD_append_ofBool (getLsbD_append_zeros from8 2) s.irqReq
  have from3 := getLsbD_append_ofBool (getLsbD_append_ofBool from5 s.flagRxris) s.flagTxff
  have from1 := getLsbD_append_ofBool (getLsbD_append_ofBool from3 s.flagRxfull) s.flagRxne
  exact getLsbD_append_ofBool from1 s.flagOpen k

theorem State.flagOpen_iff (s : State) : s.flagOpen = true ↔ s.baudRate ≠ 0#32 := bne_iff_ne

theorem State.flagRxne_iff (s : State) : s.flagRxne = true ↔ s.count ≠ 0#16 := bne_iff_ne

theorem State.flagRxfull_iff (s : State) : s.flagRxfull = true ↔ s.count.toNat = s.cfg.n := beq_iff_eq

theorem State.flagTxff_iff (s : State) : s.flagTxff = true ↔ s.txHold ≠ none := Option.isSome_iff_ne_none

theorem State.flagRxris_iff (s : State) : s.flagRxris = true ↔ s.rxHold ≠ none := Option.isSome_iff_ne_none

theorem State.irqReq_iff (s : State) :
    s.irqReq = true ↔ s.rxHold ≠ none ∧ s.imsc.getLsbD 4 = true := by
  rw [State.irqReq, Bool.and_eq_true, s.flagRxris_iff, State.rxim]

/-- Settles O40: RD_STATUS's word takes no operand, and bit `k` is the layout's entry `k`. -/
theorem statusBits : Obligations.StatusBits := by
  refine ⟨fun d => decode_pattern_append rfl BitVec.and_zero, fun s => ?_⟩
  have bit := s.statusWord_getLsbD
  refine ⟨fun hq hl => whenFree_of_free hq hl _, ?_, ?_, ?_, ?_, ?_, ?_, bit 8, bit 9, ?_⟩
  · exact bit 0 ▸ s.flagOpen_iff
  · exact bit 1 ▸ s.flagRxne_iff
  · exact bit 2 ▸ s.flagRxfull_iff
  · exact bit 3 ▸ s.flagTxff_iff
  · exact bit 4 ▸ s.flagRxris_iff
  · exact bit 5 ▸ s.irqReq_iff
  · rintro k (rfl | rfl | habove)
    · exact bit 6
    · exact bit 7
    · exact (bit k).trans (List.getD_eq_default _ _ habove)

/-! ## The other reads -/

/-- A read of a free foreground answers its word, however that word is written. -/
theorem observe_of_free {s : State} (hq : s.seq = .idle) (hl : s.loop = .quiet) {w v : Word}
    (hw : w = v) : observe s w = .next { s with answer := .rdata v } := by
  subst hw
  exact whenFree_of_free hq hl _

/-- PTRS is its two halves (10_state R25). -/
theorem State.hc_eq_head_append_count (s : State) : s.hc = s.head ++ s.count :=
  (Laws.append_extractLsb' (a := 16) (b := 16) s.hc).symm

/-- Settles O39: none of the words takes an operand, and each read is `observe` of its register, whose zero
extension is a zero field above it. -/
theorem observationReadsAnswer : Obligations.ObservationReadsAnswer := by
  refine ⟨fun d => ?_, fun s hq hl => ?_⟩
  · refine ⟨?_, ?_, ?_, ?_, ?_, ?_, ?_, ?_, ?_⟩ <;> exact decode_pattern_append rfl BitVec.and_zero
  · have answers {w v : Word} (hw : w = v) :
        observe s w = .next { s with answer := .rdata v } := observe_of_free hq hl hw
    exact ⟨answers s.hc_eq_head_append_count, answers rfl, answers rfl, answers rfl,
      answers (Laws.setWidth_eq_zero_append s.ibrd), answers (Laws.setWidth_eq_zero_append s.fbrd),
      answers (Laws.setWidth_eq_zero_append s.lcrh), answers (Laws.setWidth_eq_zero_append s.cr),
      answers (Laws.setWidth_eq_zero_append s.imsc)⟩

end Sys2Proof.Machine
end

section
/-! The receive line's delivery and the dispatcher, one operation at a time (60_exceptions R238 to R240). -/

namespace Sys2Proof.Machine

/-! ## RX_DELIVER -/

theorem State.rxEnabled_iff (s : State) :
    s.rxEnabled = true ↔ s.cr.getLsbD 0 = true ∧ s.cr.getLsbD 9 = true :=
  Bool.and_eq_true_iff

theorem exec_rxDeliver_empty {s : State} (hen : s.rxEnabled = true) (hempty : s.rxHold = none)
    (b : Byte) :
    exec (.rxDeliver b) s = .next { s with rxHold := some b, rxSeq := s.rxSeq ++ [b] } := by
  rw [exec, execRxDeliver, if_pos hen, hempty]

theorem exec_rxDeliver_occupied {s : State} {old : Byte} (hen : s.rxEnabled = true)
    (hold : s.rxHold = some old) (b : Byte) :
    exec (.rxDeliver b) s = .next { s with lineOverrun := true } := by
  rw [exec, execRxDeliver, if_pos hen, hold]

theorem exec_rxDeliver_disabled {s : State} (hoff : s.rxEnabled = false) (b : Byte) :
    exec (.rxDeliver b) s = .next s :=
  if_neg (Bool.eq_false_iff.1 hoff)

/-- Settles O41: the three branches of RX_DELIVER, by whether the receiver is enabled and what the holding
register has. -/
theorem deliverCases : Obligations.DeliverCases := by
  refine fun s b => ⟨fun hu hr hempty => ?_, fun old hu hr hold => ?_, fun hoff => ?_⟩
  · exact exec_rxDeliver_empty (s.rxEnabled_iff.2 ⟨hu, hr⟩) hempty b
  · exact exec_rxDeliver_occupied (s.rxEnabled_iff.2 ⟨hu, hr⟩) hold b
  · exact exec_rxDeliver_disabled (Bool.and_eq_false_iff.2 hoff) b

/-! ## DISPATCH and TX_EMIT, enabled or not -/

theorem exec_dispatch_enabled {s : State} (h : s.dispatchEnabled = true) :
    exec .dispatch s = .next s.deliver :=
  if_pos h

theorem exec_dispatch_disabled {s : State} (h : ¬ s.dispatchEnabled = true) :
    exec .dispatch s = .refused (.notEnabled .disp) :=
  if_neg h

theorem exec_dispatch_isNext_iff (s : State) :
    (∃ t, exec .dispatch s = .next t) ↔ s.dispatchEnabled = true := by
  refine ⟨fun ⟨t, h⟩ => ?_, fun h => ⟨_, exec_dispatch_enabled h⟩⟩
  by_contra hoff
  rw [exec_dispatch_disabled hoff] at h
  cases h

theorem State.emitEnabled_iff (s : State) :
    s.emitEnabled = true ↔ (∃ b, s.txHold = some b) ∧ s.txEnabled = true := by
  rw [State.emitEnabled, Bool.and_eq_true, State.flagTxff, Option.isSome_iff_exists]

theorem exec_txEmit_enabled {s : State} (h : s.emitEnabled = true) : ∃ t, exec .txEmit s = .next t := by
  obtain ⟨⟨b, hb⟩, hen⟩ := s.emitEnabled_iff.1 h
  exact ⟨_, exec_txEmit_waiting hen hb⟩

theorem exec_txEmit_disabled {s : State} (h : ¬ s.emitEnabled = true) :
    exec .txEmit s = .refused (.notEnabled .lineTx) := by
  rw [s.emitEnabled_iff] at h
  rw [exec, execTxEmit]
  split
  · rename_i hen
    split
    · rename_i b hb
      exact absurd ⟨⟨b, hb⟩, hen⟩ h
    · rfl
  · rfl

/-- Settles O42: DISPATCH goes through exactly where it is enabled, and that is R239's condition. -/
theorem dispatchEnabledExactly : Obligations.DispatchEnabledExactly := by
  intro s
  rw [exec_dispatch_isNext_iff, s.dispatchEnabled_iff, Option.ne_none_iff_exists']

/-- Settles O43: an operation without a next state is one whose agent is not enabled. -/
theorem disabledAgentsHaveNoStep : Obligations.DisabledAgentsHaveNoStep := by
  refine fun s => ⟨fun hno => ?_, fun hno => ?_⟩
  · have hoff : ¬ s.dispatchEnabled = true := mt (exec_dispatch_isNext_iff s).2 hno
    exact ⟨exec_dispatch_disabled hoff, if_neg hoff⟩
  · have hoff : ¬ s.emitEnabled = true := mt exec_txEmit_enabled hno
    exact ⟨exec_txEmit_disabled hoff, if_neg hoff⟩

/-! ## What DISPATCH does -/

theorem State.irqReq_of_rxHold_none {s : State} (h : s.rxHold = none) : s.irqReq = false := by
  rw [State.irqReq, State.flagRxris, h]
  rfl

/-- Settles O44: the two branches of the delivery, each with the half of the statement that is about it. -/
theorem dispatchMovesByte : Obligations.DispatchMovesByte := by
  intro s b hwf hb him hvic hcb
  have hen : s.dispatchEnabled = true := s.dispatchEnabled_iff.2 ⟨⟨b, hb⟩, him, hvic, hcb⟩
  refine ⟨s.deliver, exec_dispatch_enabled hen, ?_⟩
  obtain ⟨b', hb', hcases⟩ := State.deliver_cases hen
  obtain rfl : b = b' := Option.some.inj (hb.symm.trans hb')
  rcases hcases with ⟨hfull, e⟩ | ⟨hne, e⟩ <;> rw [e]
  · exact ⟨rfl, State.irqReq_of_rxHold_none rfl, rfl, fun hroom => absurd hfull hroom.ne,
      fun _ => ⟨rfl, satIncr_toNat s.overrunCount, fun _ => rfl⟩, rfl⟩
  · refine ⟨rfl, State.irqReq_of_rxHold_none rfl, packHc_head _ _, fun hroom => ?_,
      fun hfull => absurd hfull hne, rfl⟩
    obtain ⟨-, hcount⟩ := State.ptrs_of_push (t := { s with hc := _ }) hwf hroom rfl
    exact ⟨hcount, rfl, Memory.read_write_same _ _ _, fun a ha => Memory.read_write_other _ _ ha⟩

end Sys2Proof.Machine
end

section
/-! Receive order and who moves what: the foreground leaves the receive line alone (60_exceptions R255, R256),
and nobody else takes anything out of the ring buffer (60_exceptions R258). -/

namespace Sys2Proof.Machine

/-! ## The foreground -/

/-- What a move of the foreground leaves: the receive line's side, and the operations still to come; and it
puts nothing into the ring buffer. -/
structure FgLeaves (s t : State) : Prop where
  rxHold_eq : t.rxHold = s.rxHold
  rxSeq_eq : t.rxSeq = s.rxSeq
  offered_eq : t.offered = s.offered
  host_eq : t.host = s.host
  count_le : t.count.toNat ≤ s.count.toNat

/-- A change of none of these parts. -/
theorem FgLeaves.of_parts {s t : State} (hrx : t.rxHold = s.rxHold) (hseq : t.rxSeq = s.rxSeq)
    (hoff : t.offered = s.offered) (hhost : t.host = s.host) (hhc : t.hc = s.hc) : FgLeaves s t :=
  ⟨hrx, hseq, hoff, hhost, by rw [State.count, State.count, hhc]⟩

/-- O10 and K3 empty the ring buffer. -/
theorem FgLeaves.of_emptied {s t : State} (hrx : t.rxHold = s.rxHold) (hseq : t.rxSeq = s.rxSeq)
    (hoff : t.offered = s.offered) (hhost : t.host = s.host) (hhc : t.hc = 0#32) : FgLeaves s t :=
  ⟨hrx, hseq, hoff, hhost, by rw [State.count, hhc]; exact Nat.zero_le _⟩

theorem FgMove.leaves {s t : State} (h : FgMove s t) : FgLeaves s t := by
  cases h with
  | openMicro k r i f hk =>
    cases k with
    | o3 | o4 | o5 | o6 | o7 | o11 => exact .of_parts rfl rfl rfl rfl rfl
    | o8 => rw [State.openMicro_o8]; exact .of_parts rfl rfl rfl rfl rfl
    | o9 => rw [State.openMicro_o9]; exact .of_parts rfl rfl rfl rfl rfl
    | o10 => exact .of_emptied rfl rfl rfl rfl rfl
  | closeMicro k hk =>
    cases k with
    | k2 => exact .of_parts rfl rfl rfl rfl rfl
    | k3 => exact .of_emptied rfl rfl rfl rfl rfl
  | stay | answer | latchZero | openAccept | openReject | close => exact .of_parts rfl rfl rfl rfl rfl
  | pop hq w u hd l a hl =>
    rcases State.dequeue_cases hd with ⟨-, -, rfl⟩ | ⟨hc, -, b, d, -, -, rfl⟩
    · exact .of_parts rfl rfl rfl rfl rfl
    · have hpred := State.count_pred hc
      refine ⟨rfl, rfl, rfl, rfl, ?_⟩
      rw [State.count, packHc_count]
      omega
  | transmit hq b l a hl =>
    obtain ⟨_, _, _, _, -, e⟩ := s.transmit_frame b
    rw [e]
    exact .of_parts rfl rfl rfl rfl rfl
  | lineOn hq irq =>
    rcases s.lineOn_cases irq with e | e <;> rw [e] <;> exact .of_parts rfl rfl rfl rfl rfl
  | lineOff hq irq =>
    rcases s.lineOff_cases irq with e | e <;> rw [e] <;> exact .of_parts rfl rfl rfl rfl rfl
  | bindLine hq irq g =>
    rcases s.bindLine_cases irq g with e | e <;> rw [e] <;> exact .of_parts rfl rfl rfl rfl rfl

/-! ## Receive order -/

theorem RxOrdered.fgMove {s t : State} (ho : RxOrdered s) (h : FgMove s t) : RxOrdered t := by
  rw [RxOrdered, h.leaves.offered_eq, h.leaves.rxHold_eq, h.leaves.rxSeq_eq]
  exact ho

/-- DISPATCH offers the byte that waits, whether or not the ring buffer has room for it. -/
theorem RxOrdered.deliver {s : State} (ho : RxOrdered s) (h : s.dispatchEnabled = true) :
    RxOrdered s.deliver := by
  obtain ⟨b, hb, hcases⟩ := State.deliver_cases h
  have hseq : s.offered ++ [b] = s.rxSeq := by simpa [RxOrdered, hb] using ho
  rcases hcases with ⟨-, e⟩ | ⟨-, e⟩ <;> rw [e] <;> exact (List.append_nil _).trans hseq

/-- RX_DELIVER into the empty holding register: the byte waits, and is the last delivered. -/
theorem RxOrdered.receive {s : State} (ho : RxOrdered s) (hempty : s.rxHold = none) (b : Byte) :
    RxOrdered { s with rxHold := some b, rxSeq := s.rxSeq ++ [b] } := by
  have hseq : s.offered = s.rxSeq := by simpa [RxOrdered, hempty] using ho
  exact congrArg (· ++ [b]) hseq

/-- Settles O45: move by move; RX_DELIVER puts the byte it delivers where it waits, DISPATCH offers the one
that waits, and RESET begins with nothing. -/
theorem stepKeepsReceiveOrder : Obligations.StepKeepsReceiveOrder := by
  intro s t ho hstep
  have ho' : RxOrdered s.nextTurn.2 := by rw [s.nextTurn_snd]; exact ho
  cases step_cases hstep with
  | fg ht h hi => exact ho'.fgMove h
  | fgIssue ht op ops hq hl hh hi h =>
    have hops : RxOrdered { s.nextTurn.2 with host := ops } := ho'
    exact hops.fgMove h
  | dispatch ht h => exact ho'.deliver h
  | passes | overrun | emitted => exact ho'
  | received b ht hempty =>
    rw [show s.rxSeq = s.nextTurn.2.rxSeq by rw [s.nextTurn_snd]]
    exact ho'.receive hempty b
  | reset ht => rfl

/-! ## Who moves what -/

/-- From `s` to `t` the foreground stays where it is, and the ring buffer gains one byte at most. -/
def ForegroundStays (s t : State) : Prop :=
  t.head = s.head ∧ s.count.toNat ≤ t.count.toNat ∧ t.count.toNat ≤ s.count.toNat + 1 ∧
    t.seq = s.seq ∧ t.loop = s.loop ∧ t.lastResult = s.lastResult

theorem ForegroundStays.of_nextTurn {s t : State} (h : ForegroundStays s.nextTurn.2 t) :
    ForegroundStays s t := by
  rw [s.nextTurn_snd] at h
  exact h

theorem ForegroundStays.refl (s : State) : ForegroundStays s s :=
  ⟨rfl, Nat.le_refl _, Nat.le_succ _, rfl, rfl, rfl⟩

theorem ForegroundStays.deliver {s : State} (hs : Sound s) (h : s.dispatchEnabled = true) :
    ForegroundStays s s.deliver := by
  obtain ⟨b, -, ⟨-, e⟩ | ⟨hne, e⟩⟩ := State.deliver_cases h <;> rw [e]
  · exact .refl s
  · have hroom : s.count.toNat < s.cfg.n := Nat.lt_of_le_of_ne hs.countLe hne
    obtain ⟨hhead, hcount⟩ := State.ptrs_of_push (t := { s with hc := _ }) hs.cfgOk hroom rfl
    exact ⟨hhead, (Nat.le_succ _).trans_eq hcount.symm, hcount.le, rfl, rfl, rfl⟩

/-- Settles O46: of the other agents only the dispatcher reaches the pointer word, and its byte finds room or
is dropped. -/
theorem onlyForegroundConsumes : Obligations.OnlyForegroundConsumes := by
  intro s t hs hstep hfg hreset
  have hs' : Sound s.nextTurn.2 := by rw [s.nextTurn_snd]; exact { hs with }
  cases step_cases hstep with
  | fg ht | fgIssue ht => exact absurd ht hfg
  | dispatch ht h => exact (ForegroundStays.deliver hs' h).of_nextTurn
  | passes | received | overrun | emitted =>
    exact ForegroundStays.of_nextTurn (s := s) (.refl s.nextTurn.2)
  | reset ht => exact absurd ht hreset

/-- From `s` to `t` nothing comes into the ring buffer, and a byte that waits goes on waiting. -/
def ReceivesNothing (s t : State) : Prop :=
  t.count.toNat ≤ s.count.toNat ∧ t.buf = s.buf ∧ ∀ b, s.rxHold = some b → t.rxHold = some b

theorem ReceivesNothing.of_nextTurn {s t : State} (h : ReceivesNothing s.nextTurn.2 t) :
    ReceivesNothing s t := by
  rw [s.nextTurn_snd] at h
  exact h

theorem FgMove.receivesNothing {s t : State} (h : FgMove s t) : ReceivesNothing s t :=
  ⟨h.leaves.count_le, h.keeps.buf_eq, fun _ hb => h.leaves.rxHold_eq.trans hb⟩

/-- Only DISPATCH puts a byte into the ring buffer or takes one that waits, and it needs the line enabled;
RX_DELIVER fills only an empty holding register. -/
theorem step_receivesNothing {s t : State} (hoff : s.vicEnabled = false) (hstep : step s = .next t)
    (hreset : s.nextTurn.1 ≠ .reset) : ReceivesNothing s t := by
  apply ReceivesNothing.of_nextTurn
  cases step_cases hstep with
  | fg ht h hi => exact h.receivesNothing
  | fgIssue ht op ops hq hl hh hi h => exact h.receivesNothing
  | dispatch ht h =>
    obtain ⟨-, -, hon, -⟩ := s.nextTurn.2.dispatchEnabled_iff.1 h
    rw [s.nextTurn_snd] at hon
    exact absurd (hoff.symm.trans hon) Bool.false_ne_true
  | passes | overrun | emitted => exact ⟨Nat.le_refl _, rfl, fun _ => id⟩
  | received b ht hempty =>
    refine ⟨Nat.le_refl _, rfl, fun old hold => ?_⟩
    rw [hempty] at hold
    cases hold
  | reset ht => exact absurd ht hreset

theorem step_reset {s t : State} (ht : s.nextTurn.1 = .reset) (hstep : step s = .next t) :
    t = s.nextTurn.2.applyReset := by
  rw [step, ht] at hstep
  cases hstep
  rfl

/-- Settles O47: no step but RESET receives, and RESET leaves the ring buffer empty. -/
theorem disabledLineReceivesNothing : Obligations.DisabledLineReceivesNothing := by
  intro s t hoff hstep
  by_cases hreset : s.nextTurn.1 = .reset
  · refine ⟨?_, fun _ hr => absurd hreset hr, fun hr => absurd hreset hr⟩
    have hempty : t.count = 0#16 := by
      rw [step_reset hreset hstep]
      exact State.resetWith_count s.nextTurn.2.cfg
    rw [hempty]
    exact Nat.zero_le _
  · obtain ⟨hcount, hbuf, hwaits⟩ := step_receivesNothing hoff hstep hreset
    exact ⟨hcount, fun a _ => congrArg (·.read a) hbuf, fun _ => hwaits⟩

end Sys2Proof.Machine
end

section
/-! RESET, and the poll that makes a WRITE safe (70_reset R270 to R273, R283). -/

namespace Sys2Proof.Machine

/-! ## RESET -/

/-- Settles O52: RESET's turn is the event, whatever the foreground is inside. -/
theorem resetEventAbandonsOperation : Obligations.ResetEventAbandonsOperation :=
  fun _ _ hsched => step_turn hsched

/-- Settles O53: the ring buffer empty, the histories empty, the device Closed. -/
theorem resetIsSound : Obligations.ResetIsSound :=
  fun c hwf => ⟨.resetWith hwf, fun _ => rfl, rfl, .ofEmptied (State.resetWith_count c) rfl rfl,
    .resetWith c⟩

/-! ## The polled WRITE -/

/-- Bit 3 of STATUS is TXFF (46_observation R216). -/
theorem State.statusWord_bit3_eq_false_iff (s : State) :
    s.statusWord.getLsbD 3 = false ↔ s.txHold = none := by
  rw [show s.statusWord.getLsbD 3 = s.flagTxff from s.statusWord_getLsbD 3]
  exact Option.isSome_eq_false_iff.trans Option.isNone_iff_eq_none

/-- WRITE into an empty holding register corrupts nothing (44_transmit R191). -/
theorem State.transmit_txCorrupt_of_empty {s : State} (hempty : s.txHold = none) (b : Byte) :
    (s.transmit b).txCorrupt = s.txCorrupt := by
  rcases s.transmit_cases b with ⟨-, e⟩ | ⟨-, -, e⟩ | ⟨-, ⟨old, hold⟩, -⟩
  · rw [e]
  · rw [e]
  · rw [hempty] at hold
    cases hold

theorem State.deliver_txHold {s : State} (h : s.dispatchEnabled = true) :
    s.deliver.txHold = s.txHold := by
  obtain ⟨b, -, ⟨-, e⟩ | ⟨-, e⟩⟩ := State.deliver_cases h <;> rw [e]

/-- No agent but the foreground fills the transmit holding register. -/
theorem step_keeps_txHold_none {s t : State} (hempty : s.txHold = none) (hstep : step s = .next t)
    (hfg : s.nextTurn.1 ≠ .fg) : t.txHold = none := by
  have hempty' : s.nextTurn.2.txHold = none := by rw [s.nextTurn_snd]; exact hempty
  cases step_cases hstep with
  | fg ht | fgIssue ht => exact absurd ht hfg
  | dispatch ht h => exact (State.deliver_txHold h).trans hempty'
  | passes | received | overrun => exact hempty'
  | emitted | reset => rfl

/-- Settles O33: TXFF at 0 is an empty holding register, which WRITE fills and no other agent does. -/
theorem polledWriteIsSafe : Obligations.PolledWriteIsSafe := by
  intro s b hpoll
  have hempty : s.txHold = none := s.statusWord_bit3_eq_false_iff.1 hpoll
  refine ⟨fun hq hl hf => ?_, fun t hstep hfg => ?_⟩
  · exact ⟨_, exec_write_of_free hq hl b, State.transmit_txCorrupt_of_empty hempty b, hf.transmit b⟩
  · exact t.statusWord_bit3_eq_false_iff.2 (step_keeps_txHold_none hempty hstep hfg)

end Sys2Proof.Machine
end

section
/-! A program inside the admitted subset is never stopped (60_exceptions R230, R235; 30_encoding R103). -/

namespace Sys2Proof.Machine

/-! ## Progress -/

/-- A BUS operation of a free foreground goes through wherever `head` is a slot. -/
theorem exec_bus_isNext {i : Instr} (hi : i.isBus = true) {s : State} (hq : s.seq = .idle)
    (hl : s.loop = .quiet) (hh : s.head.toNat < s.cfg.n) : ∃ t, exec i s = .next t := by
  have free (r : Result) : whenFree s r = r := whenFree_of_free hq hl r
  cases i with
  | read =>
    obtain ⟨w, t, hd⟩ := State.dequeue_isSome hh
    exact ⟨t, (free _).trans (by rw [readPop, hd])⟩
  | openDev | closeDev | rdStatus | available | write | flush | addReceiveHandler
  | clearReceiveHandlers | rdPtrs | rdOverrun | rdBaud | rdResult | rdIbrd | rdFbrd | rdLcrh | rdCr
  | rdImsc => exact ⟨_, free _⟩
  | isOpen | readInto | writeBuf | receive | dispatch | rxDeliver | txEmit | regRead | setBits
  | writeHard | enableLine | disableLine | bindHandler => cases hi

theorem runWord_isNext {w : TxnWord} (hw : (decode w).toOption.isSome = true) {s : State}
    (hq : s.seq = .idle) (hl : s.loop = .quiet) (hh : s.head.toNat < s.cfg.n) :
    ∃ t, runWord w s = .next t := by
  cases hdec : decode w with
  | error e => rw [hdec] at hw; cases hw
  | ok i =>
    rw [runWord_of_decode hdec]
    exact exec_bus_isNext (decode_isBus hdec) hq hl hh

/-- A free foreground issues an admitted operation without a fault or a refusal. -/
theorem issue_isNext {op : HostOp} {s : State} (hop : op.admittedIn s.cfg = true)
    (hq : s.seq = .idle) (hl : s.loop = .quiet) (hh : s.head.toNat < s.cfg.n) :
    ∃ t, issue op s = .next t := by
  cases op with
  | bus w => exact runWord_isNext hop hq hl hh
  | access k addr d =>
    obtain ⟨i, hi⟩ := Option.isSome_iff_exists.1 hop
    obtain ⟨w, hw, hdec⟩ := Option.bind_eq_some_iff.1 hi
    rw [issue_word (op := .access k addr d) hw]
    exact runWord_isNext (Option.isSome_of_eq_some hdec) hq hl hh
  | readInto out max =>
    have hlen : max ≤ out.length := of_decide_eq_true hop
    obtain ⟨t, ht⟩ := readIntoTurn_isNext hh out max 0
    exact ⟨t, (exec_readInto_of_free hq hl hlen).trans ht⟩
  | isOpen | writeBuf => exact ⟨_, whenFree_of_free hq hl _⟩
  | enableLine | disableLine | bindHandler => exact ⟨_, rfl⟩

/-- The foreground's step goes through, its operations to come admitted. -/
theorem stepFG_isNext {s : State} (hh : s.head.toNat < s.cfg.n) (hp : s.programAdmitted = true) :
    ∃ t, stepFG s = .next t := by
  unfold stepFG
  split
  · exact ⟨_, rfl⟩
  · exact ⟨_, rfl⟩
  · rename_i hq
    split
    · exact readIntoTurn_isNext hh _ _ _
    · exact ⟨_, rfl⟩
    · rename_i hl
      split
      · exact ⟨_, rfl⟩
      · rename_i op ops hhost
        have hop : op.admittedIn s.cfg = true :=
          List.all_eq_true.1 hp op (by rw [hhost]; exact List.mem_cons_self)
        exact issue_isNext (s := { s with host := ops }) hop hq hl hh

/-- Whoever's turn it is, the step goes through. -/
theorem takeTurn_isNext {s : State} (hh : s.head.toNat < s.cfg.n) (hp : s.programAdmitted = true)
    (t : Turn) : ∃ u, takeTurn t s = .next u := by
  by_cases hfg : t = .fg
  · subst hfg
    exact stepFG_isNext hh hp
  · by_cases hreset : t = .reset
    · subst hreset
      exact ⟨_, rfl⟩
    · obtain ⟨u, hu, -⟩ := takeTurn_beside hfg hreset s
      exact ⟨u, hu⟩

/-! ## What is left of the program -/

/-- The host operations a step leaves to come are a part of those there were. -/
theorem step_host_subset {s t : State} (hstep : step s = .next t) : t.host ⊆ s.host := by
  have hturn : s.nextTurn.2.host = s.host := by rw [s.nextTurn_snd]
  have same {u : State} (h : u.host = s.nextTurn.2.host) : u.host ⊆ s.host := by
    rw [h, hturn]
    exact List.Subset.refl _
  cases step_cases hstep with
  | fg ht h hi => exact same h.leaves.host_eq
  | fgIssue ht op ops hq hl hh hi h =>
    rw [h.leaves.host_eq, hh]
    exact List.subset_cons_self op ops
  | dispatch ht h => exact same ((Beside.deliver h).read State.host)
  | passes | received | overrun | emitted | reset => exact same rfl

theorem step_keeps_programAdmitted {s t : State} (hp : s.programAdmitted = true)
    (hstep : step s = .next t) : t.programAdmitted = true := by
  obtain ⟨hcfg, -⟩ := onlyResetClears s t hstep
  rw [State.programAdmitted, List.all_eq_true] at hp ⊢
  intro op hop
  rw [hcfg]
  exact hp op (step_host_subset hstep hop)

/-- Settles O57: `head` is a slot in a sound state, which is all that READ needs, and an admitted operation
needs nothing else but a free foreground; what is left of the program is a part of it. -/
theorem admittedProgramNeverStops : Obligations.AdmittedProgramNeverStops := by
  intro s hs hp
  have hh' : s.nextTurn.2.head.toNat < s.nextTurn.2.cfg.n := by rw [s.nextTurn_snd]; exact hs.headLt
  have hp' : s.nextTurn.2.programAdmitted = true := by rw [s.nextTurn_snd]; exact hp
  obtain ⟨t, hstep⟩ := takeTurn_isNext hh' hp' s.nextTurn.1
  exact ⟨t, hstep, step_keeps_programAdmitted hp hstep⟩

end Sys2Proof.Machine
end
